-- ==== Sys2Proof/Word.lean ====
section
/-! DEFINITION. The word types of the machine and the two maps between words and integers (spec/00_scope.md R6). -/

namespace Sys2Proof

/-- One channel value of a cell, 0 to 255 (R6, R42). -/
abbrev Byte := BitVec 8

/-- An `int32`: a stack element, a tape cell, a coordinate of the ip or of a frame (R6, R22, R26, R33). -/
abbrev Word := BitVec 32

/-- The memory pointer: 31 value bits, `0 .. 2^31 - 1` (R28, R39). -/
abbrev MemPtr := BitVec 31

/-- `s32(v)`: the one `int32` congruent to `v` modulo `2^32` (R6). -/
def s32 (v : Int) : Word := BitVec.ofInt 32 v

/-- `u32(v)`: the integer `0 .. 2^32 - 1` congruent to the `int32` `v` (R6). -/
def u32 (v : Word) : Nat := v.toNat

end Sys2Proof
end

