-- ==== Sys2Proof/Syntax.lean ====
section
/-! DEFINITION. Cells, directions and the 63 instructions of the Mycelium cell ISA
(spec/30_encoding.md R90, R96, R97; spec/10_state.md R34, R42). -/

namespace Sys2Proof

/-- One grid position's colour triple: one instruction (R90). -/
structure Cell where
  r : Byte
  g : Byte
  b : Byte
deriving DecidableEq, Repr

/-- A Program Grid: "a grid of Cells with fixed positive width W and height H" (R42), its `W * H` cells row by row,
row 0 first and column 0 first (the order of R100; the layout is the model's representation, log 2). -/
structure Grid where
  width : Nat
  height : Nat
  cells : List Cell
deriving DecidableEq, Repr

/-- The direction register's legal values (R34). -/
inductive Dir where
  | east
  | south
  | west
  | north
deriving DecidableEq, Repr

/-- One constructor per row of spec/opcode_table.json (R96); operands have exactly the width the encoding
gives them (R93). -/
inductive Instr where
  /-- Family 0, R140. -/
  | nop
  /-- Family 1, R150: set direction. -/
  | dir (d : Dir)
  /-- Family 2, R151: relative jump. -/
  | jmp (n : BitVec 16)
  /-- Family 3, R152: relative jump if the popped value is 0. -/
  | jz (n : BitVec 16)
  /-- Family 4 subcode 0, R170. -/
  | ijmp
  /-- Family 4 subcode 1, R171. -/
  | call
  /-- Family 4 subcode 2, R172. -/
  | ret
  /-- Family 4 subcode 3, R173. -/
  | rsvdT3
  /-- Family 5 subcode 0, R190. -/
  | store
  /-- Family 5 subcode 1, R191. -/
  | load
  /-- Family 5 subcode 2, R192. -/
  | setp
  /-- Family 5 subcode 3, R193. -/
  | getp
  /-- Family 5 subcode 4, R194. -/
  | incp
  /-- Family 5 subcode 5, R195. -/
  | decp
  /-- Family 5 subcode 6, R196. -/
  | rsvdM6
  /-- Family 5 subcode 7, R197. -/
  | rsvdM7
  /-- Family 6, R141. -/
  | rsvdF6
  /-- Family 7, R142. -/
  | rsvdF7
  /-- Family 8, R210. -/
  | push16 (n : BitVec 16)
  /-- Family 9, R211. -/
  | push2 (g b : Byte)
  /-- Family 10 subcode 0, R220. -/
  | drop
  /-- Family 10 subcode 1, R221. -/
  | dup
  /-- Family 10 subcode 2, R222. -/
  | swap
  /-- Family 10 subcode 3, R223. -/
  | dup2
  /-- Family 11 subcode 0, R244. -/
  | add
  /-- Family 11 subcode 1, R245. -/
  | sub
  /-- Family 11 subcode 2, R246. -/
  | mul
  /-- Family 11 subcode 3, R247. -/
  | div
  /-- Family 11 subcode 4, R248. -/
  | mod
  /-- Family 11 subcode 5, R249. -/
  | or
  /-- Family 11 subcode 6, R250. -/
  | and
  /-- Family 11 subcode 7, R251. -/
  | xor
  /-- Family 11 subcode 8, R252. -/
  | not
  /-- Family 11 subcode 9, R253. -/
  | sar
  /-- Family 11 subcode 10, R254. -/
  | shr
  /-- Family 11 subcode 11, R255. -/
  | shl
  /-- Family 11 subcode 12, R256. -/
  | eq
  /-- Family 11 subcode 13, R257. -/
  | ne
  /-- Family 11 subcode 14, R258. -/
  | gt
  /-- Family 11 subcode 15, R259. -/
  | lt
  /-- Family 11 subcode 16, R260. -/
  | ge
  /-- Family 11 subcode 17, R261. -/
  | le
  /-- Family 11 subcode 18, R262. -/
  | land
  /-- Family 11 subcode 19, R263. -/
  | lor
  /-- Family 11 subcode 20, R264. -/
  | lnot
  /-- Family 11 subcode 21, R265. -/
  | rsvdA21
  /-- Family 11 subcode 22, R266. -/
  | rsvdA22
  /-- Family 11 subcode 23, R267. -/
  | rsvdA23
  /-- Family 11 subcode 24, R268. -/
  | rsvdA24
  /-- Family 11 subcode 25, R269. -/
  | rsvdA25
  /-- Family 11 subcode 26, R270. -/
  | rsvdA26
  /-- Family 11 subcode 27, R271. -/
  | rsvdA27
  /-- Family 11 subcode 28, R272. -/
  | rsvdA28
  /-- Family 11 subcode 29, R273. -/
  | rsvdA29
  /-- Family 11 subcode 30, R274. -/
  | rsvdA30
  /-- Family 11 subcode 31, R275. -/
  | rsvdA31
  /-- Family 12 subcode 0, R290. -/
  | outc
  /-- Family 12 subcode 1, R291. -/
  | inch
  /-- Family 12 subcode 2, R292. -/
  | outi
  /-- Family 12 subcode 3, R293. -/
  | rsvdIo3
  /-- Family 13, R143. -/
  | rsvdF13
  /-- Family 14, R144. -/
  | rsvdF14
  /-- Family 15, R145. -/
  | rsvdF15
deriving DecidableEq, Repr

end Sys2Proof
end

