-- ==== Sys2Proof/Decode.lean ====
section
/-! DEFINITION. The opcode decoder and the canonical encoder (spec/30_encoding.md R90 to R101). The decoder is a
total function of the cell (R94); the encoder writes the canonical encoding of R100, every don't-care bit 0. -/

namespace Sys2Proof

/-! ### Cells as words -/

/-- `cell24 = 65536*r + 256*g + b` (R91). -/
def Cell.word24 (c : Cell) : BitVec 24 := c.r ++ c.g ++ c.b

/-- The cell whose packed form is `w` (R91). -/
def Cell.ofWord24 (w : BitVec 24) : Cell where
  r := w.extractLsb' 16 8
  g := w.extractLsb' 8 8
  b := w.extractLsb' 0 8

/-- `family = r mod 16` (R92). -/
def Cell.family (c : Cell) : Nat := c.r.toNat % 16

/-- `imm16 = 256*g + b`: green is the high byte (R93). -/
def Cell.imm16 (c : Cell) : BitVec 16 := c.g ++ c.b

/-- `sub4 = b mod 4` (R93). -/
def Cell.sub4 (c : Cell) : Nat := c.b.toNat % 4

/-- `sub8 = b mod 8` (R93). -/
def Cell.sub8 (c : Cell) : Nat := c.b.toNat % 8

/-- `sub32 = b mod 32` (R93). -/
def Cell.sub32 (c : Cell) : Nat := c.b.toNat % 32

/-! ### Direction codes -/

/-- The code of a direction: EAST 0, SOUTH 1, WEST 2, NORTH 3 (R34). -/
def Dir.code : Dir → BitVec 2
  | .east => 0
  | .south => 1
  | .west => 2
  | .north => 3

/-- The direction of a code `b mod 4` (R34, R150). -/
def Dir.ofCode : Nat → Dir
  | 0 => .east
  | 1 => .south
  | 2 => .west
  | _ => .north

/-! ### Decode -/

/-- `ALU_NUMBERING`: the operation of each family-11 subcode, the list order of the document's section 4.3 with add
at 0 (R97, the spec's D19; log 20). Kept in this one table so that it can be corrected (U2). -/
def aluNumbering : Nat → Instr
  | 0 => .add
  | 1 => .sub
  | 2 => .mul
  | 3 => .div
  | 4 => .mod
  | 5 => .or
  | 6 => .and
  | 7 => .xor
  | 8 => .not
  | 9 => .sar
  | 10 => .shr
  | 11 => .shl
  | 12 => .eq
  | 13 => .ne
  | 14 => .gt
  | 15 => .lt
  | 16 => .ge
  | 17 => .le
  | 18 => .land
  | 19 => .lor
  | 20 => .lnot
  | 21 => .rsvdA21
  | 22 => .rsvdA22
  | 23 => .rsvdA23
  | 24 => .rsvdA24
  | 25 => .rsvdA25
  | 26 => .rsvdA26
  | 27 => .rsvdA27
  | 28 => .rsvdA28
  | 29 => .rsvdA29
  | 30 => .rsvdA30
  | _ => .rsvdA31

/-- Family 4 by `b mod 4` (R94, R96). -/
def decodeTranslocate : Nat → Instr
  | 0 => .ijmp
  | 1 => .call
  | 2 => .ret
  | _ => .rsvdT3

/-- Family 5 by `b mod 8` (R94, R96). -/
def decodeMemory : Nat → Instr
  | 0 => .store
  | 1 => .load
  | 2 => .setp
  | 3 => .getp
  | 4 => .incp
  | 5 => .decp
  | 6 => .rsvdM6
  | _ => .rsvdM7

/-- Family 10 by `b mod 4` (R94, R96). -/
def decodeStack : Nat → Instr
  | 0 => .drop
  | 1 => .dup
  | 2 => .swap
  | _ => .dup2

/-- Family 12 by `b mod 4` (R94, R96). -/
def decodeInputOutput : Nat → Instr
  | 0 => .outc
  | 1 => .inch
  | 2 => .outi
  | _ => .rsvdIo3

/-- `Decode(r, g, b)` (R94): every cell decodes to exactly one instruction; there is no illegal encoding. -/
def decode (c : Cell) : Instr :=
  match c.family with
  | 0 => .nop
  | 1 => .dir (Dir.ofCode c.sub4)
  | 2 => .jmp c.imm16
  | 3 => .jz c.imm16
  | 4 => decodeTranslocate c.sub4
  | 5 => decodeMemory c.sub8
  | 6 => .rsvdF6
  | 7 => .rsvdF7
  | 8 => .push16 c.imm16
  | 9 => .push2 c.g c.b
  | 10 => decodeStack c.sub4
  | 11 => aluNumbering c.sub32
  | 12 => decodeInputOutput c.sub4
  | 13 => .rsvdF13
  | 14 => .rsvdF14
  | _ => .rsvdF15

/-- Why a list of channel values is no cell. -/
inductive DecodeRefusal where
  /-- Fewer than three channel values are left (R90: an instruction is one whole cell). Safe. -/
  | truncatedCell
  /-- A channel value above 255: outside the supplier's obligations, refused (R342, D26). Safe. -/
  | channelOutOfRange
deriving DecidableEq, Repr

/-- Decoding channel values as a grid supplier hands them over, red first: one instruction and the values after it,
or a refusal by name (R90, R101, R342). -/
def decodeChannels : List Nat → Except DecodeRefusal (Instr × List Nat)
  | r :: g :: b :: rest =>
    if r < 256 ∧ g < 256 ∧ b < 256 then
      .ok (decode ⟨BitVec.ofNat 8 r, BitVec.ofNat 8 g, BitVec.ofNat 8 b⟩, rest)
    else .error .channelOutOfRange
  | _ => .error .truncatedCell

/-! ### Encode -/

/-- The cell of family `f` with green `g` and blue `b`, the don't-care bits of red 0 (R100). -/
def cellOf (f : Byte) (g b : Byte) : Cell := ⟨f, g, b⟩

/-- The canonical encoding of an instruction (R100). -/
def encode : Instr → Cell
  | .nop => cellOf 0 0 0
  | .dir d => cellOf 1 0 (d.code.setWidth 8)
  | .jmp n => cellOf 2 (n.extractLsb' 8 8) (n.extractLsb' 0 8)
  | .jz n => cellOf 3 (n.extractLsb' 8 8) (n.extractLsb' 0 8)
  | .ijmp => cellOf 4 0 0
  | .call => cellOf 4 0 1
  | .ret => cellOf 4 0 2
  | .rsvdT3 => cellOf 4 0 3
  | .store => cellOf 5 0 0
  | .load => cellOf 5 0 1
  | .setp => cellOf 5 0 2
  | .getp => cellOf 5 0 3
  | .incp => cellOf 5 0 4
  | .decp => cellOf 5 0 5
  | .rsvdM6 => cellOf 5 0 6
  | .rsvdM7 => cellOf 5 0 7
  | .rsvdF6 => cellOf 6 0 0
  | .rsvdF7 => cellOf 7 0 0
  | .push16 n => cellOf 8 (n.extractLsb' 8 8) (n.extractLsb' 0 8)
  | .push2 g b => cellOf 9 g b
  | .drop => cellOf 10 0 0
  | .dup => cellOf 10 0 1
  | .swap => cellOf 10 0 2
  | .dup2 => cellOf 10 0 3
  | .add => cellOf 11 0 0
  | .sub => cellOf 11 0 1
  | .mul => cellOf 11 0 2
  | .div => cellOf 11 0 3
  | .mod => cellOf 11 0 4
  | .or => cellOf 11 0 5
  | .and => cellOf 11 0 6
  | .xor => cellOf 11 0 7
  | .not => cellOf 11 0 8
  | .sar => cellOf 11 0 9
  | .shr => cellOf 11 0 10
  | .shl => cellOf 11 0 11
  | .eq => cellOf 11 0 12
  | .ne => cellOf 11 0 13
  | .gt => cellOf 11 0 14
  | .lt => cellOf 11 0 15
  | .ge => cellOf 11 0 16
  | .le => cellOf 11 0 17
  | .land => cellOf 11 0 18
  | .lor => cellOf 11 0 19
  | .lnot => cellOf 11 0 20
  | .rsvdA21 => cellOf 11 0 21
  | .rsvdA22 => cellOf 11 0 22
  | .rsvdA23 => cellOf 11 0 23
  | .rsvdA24 => cellOf 11 0 24
  | .rsvdA25 => cellOf 11 0 25
  | .rsvdA26 => cellOf 11 0 26
  | .rsvdA27 => cellOf 11 0 27
  | .rsvdA28 => cellOf 11 0 28
  | .rsvdA29 => cellOf 11 0 29
  | .rsvdA30 => cellOf 11 0 30
  | .rsvdA31 => cellOf 11 0 31
  | .outc => cellOf 12 0 0
  | .inch => cellOf 12 0 1
  | .outi => cellOf 12 0 2
  | .rsvdIo3 => cellOf 12 0 3
  | .rsvdF13 => cellOf 13 0 0
  | .rsvdF14 => cellOf 14 0 0
  | .rsvdF15 => cellOf 15 0 0

/-! ### Which bits each instruction reads -/

/-- The bits of `cell24` that select the instruction (R95): the row's `mask` in spec/opcode_table.json. -/
def selectMask : Instr → BitVec 24
  | .ijmp | .call | .ret | .rsvdT3 => 0x0F0003
  | .store | .load | .setp | .getp | .incp | .decp | .rsvdM6 | .rsvdM7 => 0x0F0007
  | .drop | .dup | .swap | .dup2 => 0x0F0003
  | .add | .sub | .mul | .div | .mod | .or | .and | .xor | .not | .sar | .shr | .shl => 0x0F001F
  | .eq | .ne | .gt | .lt | .ge | .le | .land | .lor | .lnot => 0x0F001F
  | .rsvdA21 | .rsvdA22 | .rsvdA23 | .rsvdA24 | .rsvdA25 | .rsvdA26 => 0x0F001F
  | .rsvdA27 | .rsvdA28 | .rsvdA29 | .rsvdA30 | .rsvdA31 => 0x0F001F
  | .outc | .inch | .outi | .rsvdIo3 => 0x0F0003
  | .nop | .dir _ | .jmp _ | .jz _ | .rsvdF6 | .rsvdF7 | .push16 _ | .push2 _ _ => 0x0F0000
  | .rsvdF13 | .rsvdF14 | .rsvdF15 => 0x0F0000

/-- The bits of `cell24` that are the instruction's operand (R95). -/
def operandMask : Instr → BitVec 24
  | .dir _ => 0x000003
  | .jmp _ | .jz _ | .push16 _ | .push2 _ _ => 0x00FFFF
  | _ => 0

/-- The bits of `cell24` that are not don't-care (R95). -/
def careMask (i : Instr) : BitVec 24 := selectMask i ||| operandMask i

/-- The value of the selecting bits in the canonical encoding; `tableMatch` is what the opcode table says of it. -/
def selectMatch (i : Instr) : BitVec 24 := (encode i).word24 &&& selectMask i

/-- The `match` column of spec/opcode_table.json, written out: the family in red and the subcode in blue (R92, R96); the
subcodes of family 11 are those of R97 (the spec's D19; log 20). -/
def tableMatch : Instr → BitVec 24
  | .nop => 0x000000
  | .dir _ => 0x010000
  | .jmp _ => 0x020000
  | .jz _ => 0x030000
  | .ijmp => 0x040000
  | .call => 0x040001
  | .ret => 0x040002
  | .rsvdT3 => 0x040003
  | .store => 0x050000
  | .load => 0x050001
  | .setp => 0x050002
  | .getp => 0x050003
  | .incp => 0x050004
  | .decp => 0x050005
  | .rsvdM6 => 0x050006
  | .rsvdM7 => 0x050007
  | .rsvdF6 => 0x060000
  | .rsvdF7 => 0x070000
  | .push16 _ => 0x080000
  | .push2 _ _ => 0x090000
  | .drop => 0x0A0000
  | .dup => 0x0A0001
  | .swap => 0x0A0002
  | .dup2 => 0x0A0003
  | .add => 0x0B0000
  | .sub => 0x0B0001
  | .mul => 0x0B0002
  | .div => 0x0B0003
  | .mod => 0x0B0004
  | .or => 0x0B0005
  | .and => 0x0B0006
  | .xor => 0x0B0007
  | .not => 0x0B0008
  | .sar => 0x0B0009
  | .shr => 0x0B000A
  | .shl => 0x0B000B
  | .eq => 0x0B000C
  | .ne => 0x0B000D
  | .gt => 0x0B000E
  | .lt => 0x0B000F
  | .ge => 0x0B0010
  | .le => 0x0B0011
  | .land => 0x0B0012
  | .lor => 0x0B0013
  | .lnot => 0x0B0014
  | .rsvdA21 => 0x0B0015
  | .rsvdA22 => 0x0B0016
  | .rsvdA23 => 0x0B0017
  | .rsvdA24 => 0x0B0018
  | .rsvdA25 => 0x0B0019
  | .rsvdA26 => 0x0B001A
  | .rsvdA27 => 0x0B001B
  | .rsvdA28 => 0x0B001C
  | .rsvdA29 => 0x0B001D
  | .rsvdA30 => 0x0B001E
  | .rsvdA31 => 0x0B001F
  | .outc => 0x0C0000
  | .inch => 0x0C0001
  | .outi => 0x0C0002
  | .rsvdIo3 => 0x0C0003
  | .rsvdF13 => 0x0D0000
  | .rsvdF14 => 0x0E0000
  | .rsvdF15 => 0x0F0000

/-! ### The opcode table's words -/

/-- The instruction the decoder reads from a word of spec/opcode_table.json, numbered as the table numbers it: the
table's word is `cell24` (R91), 24 bits, red uppermost. A number that does not fit a cell is none (R90; log 27). -/
def decodeTableWord (nbits w : Nat) : Option Instr :=
  let v := w % 2 ^ nbits
  if v < 2 ^ 24 then some (decode (Cell.ofWord24 (BitVec.ofNat 24 v))) else none

end Sys2Proof
end

