-- ==== Sys2Proof/Config.lean ====
section
/-! DEFINITION. The implementation parameters of spec/00_scope.md R5 that spec/93_implementation_defined.md
treats as `parameter`: their admissible values, and the structure that names them. The values this spec decides
stand in Sys2Proof/Machine/Params.lean. The parameter `ALU_NUMBERING` is `Sys2Proof.aluNumbering` in Decode.lean,
because only the decoder uses it (U2); `XLEN`, `TAPE_XLEN`, `IP_XLEN` and `MEM_PTR_MAX` are the widths of Word.lean. -/

namespace Sys2Proof

/-- `OVERFLOW` (U6): what ADD, SUB, MUL, SHL and NOT deliver when the exact result is no `int32`. -/
inductive Overflow where
  | wrap
  | saturate
deriving DecidableEq, Repr

/-- `DIV_ROUND` (U7). `MOD_SIGN` is tied to it by `x = (x DIV y) * y + (x MOD y)` (U8) and is no field of its own. -/
inductive DivRound where
  | truncate
  | floor
deriving DecidableEq, Repr

/-- `DUP2_ORDER` (U3, C1): bottom to top, `x, y, x, y` or `y, x, y, x`, with `x` the old top. -/
inductive Dup2Order where
  | xyxy
  | yxyx
deriving DecidableEq, Repr

/-- `READ_CHAR` (U4): the three stand-ins the document admits for the read-char stub. -/
inductive ReadChar where
  | noop
  | pushZero
  | pushSentinel (v : Word)
deriving DecidableEq, Repr

/-- `ADVANCE_DIR` (U19): the direction the advance uses. -/
inductive AdvanceDir where
  | postHandler
  | atFetch
deriving DecidableEq, Repr

/-- The named parameters of R5. It is fixed for the machine, so a field may be a function. -/
structure Config where
  /-- `DIR_DELTA` (U13): the unit move `(dx, dy)` of each direction. -/
  dirDelta : Dir → Int × Int
  /-- `ADVANCE_DIR`. -/
  advanceDir : AdvanceDir
  /-- `RESET_IP` (U20). -/
  resetIp : Word × Word
  /-- `RESET_DIR` (U20). -/
  resetDir : Dir
  /-- `RESET_MEM_PTR` (U20). -/
  resetMemPtr : MemPtr
  /-- `PTR_INC_AT_MAX` (U5): the pointer that INCP leaves when it finds `MEM_PTR_MAX`. -/
  ptrIncAtMax : MemPtr
  /-- `DUP2_ORDER`. -/
  dup2Order : Dup2Order
  /-- `READ_CHAR`. -/
  readChar : ReadChar
  /-- `OVERFLOW`. -/
  overflow : Overflow
  /-- `DIV_ROUND`. -/
  divRound : DivRound
  /-- `SHIFT_COUNT` (U9): the number of places SAR, SHR and SHL shift by, from the second operand. -/
  shiftCount : Word → Nat
  /-- Whether GT, LT, GE and LE compare as signed numbers (U10). -/
  signedCompare : Bool

/-- `CHAR_OF` (R294, U12): the character a sink shows for a `(CHAR, v)` event with `v` outside 0 to 127.
A free value: the spec leaves it to the sink, so it has no body. UNVERIFIED, safe (log 24). -/
opaque Config.charOf : Word → Char

end Sys2Proof
end

