-- ==== Sys2Proof/Machine/Params.lean ====
section
/-! DEFINITION. The values this spec gives the implementation parameters of spec/00_scope.md R5, each decided in
spec/92_eei_decisions.md. -/

namespace Sys2Proof.Machine

/-- `DIR_DELTA`: `y` grows downward (R35, the spec's D8; log 11). -/
def dirDelta : Dir → Int × Int
  | .east => (1, 0)
  | .south => (0, 1)
  | .west => (-1, 0)
  | .north => (0, -1)

/-- `SHIFT_COUNT`: the low five bits of `y` (R243 item 4, the spec's D18; log 18). -/
def shiftCount (y : Word) : Nat := u32 y % 32

/-- The parameters of the machine (R5): D9, D6, D7, D14, D24 (C1), D22 (C2), D15, D16 with D17, D18 and D29. -/
def params : Config where
  dirDelta := dirDelta
  advanceDir := .postHandler
  resetIp := (0, 0)
  resetDir := .east
  resetMemPtr := 0
  ptrIncAtMax := BitVec.allOnes 31
  dup2Order := .xyxy
  readChar := .noop
  overflow := .wrap
  divRound := .truncate
  shiftCount := shiftCount
  signedCompare := true

end Sys2Proof.Machine
end

