-- ==== Sys2Proof/Machine/State.lean ====
section
/-! DEFINITION. The machine's state, its reset value and the reasons a step can stop (spec/10_state.md R20, R44). -/

namespace Sys2Proof.Machine

/-- One call frame: position and direction (R30). -/
structure Frame where
  x : Word
  y : Word
  d : Dir
deriving DecidableEq, Repr

/-- The memory tape (R26): `len` is `mem_len`; `cells` lists, by strictly rising index, the words below `len` that
differ from what an unlisted index reads as (`Memory.unlisted`, log 7, log 8). -/
structure Memory where
  len : Nat
  cells : List (Nat × Word)
deriving DecidableEq, Repr

/-- The kinds of event on the output port (R303). -/
inductive EventKind where
  | char
  | int
deriving DecidableEq, Repr

/-- One event on the output port: a kind and the full 32-bit value (R303). -/
structure OutEvent where
  kind : EventKind
  value : Word
deriving DecidableEq, Repr

/-- What a STEP request reports to the driver (R137, R302). -/
inductive Report where
  | stepTaken
  | noStep
deriving DecidableEq, Repr

/-- The Execution State (R20), and two fields of the model's own: `grid`, a parameter of the run in the spec (log 1),
and `output`, the trace kept beside the state (R303, log 4). Both stacks are lists with the top first (log 6). -/
structure State where
  /-- The data stack, top first (R22). -/
  stack : List Word
  /-- The memory tape (R26). -/
  mem : Memory
  /-- The memory pointer (R28). -/
  memPtr : MemPtr
  /-- The call stack, top first (R30). -/
  callStack : List Frame
  /-- The instruction pointer's column (R33). -/
  ipX : Word
  /-- The instruction pointer's row (R33). -/
  ipY : Word
  /-- The direction register (R34). -/
  dir : Dir
  /-- The terminal flag (R37). -/
  halted : Bool
  /-- MODEL: the Program Grid of the run, none until one is handed over (R42, R74; log 1). -/
  grid : Option Grid
  /-- MODEL: the events emitted so far, oldest first (R303, D25; log 4). -/
  output : List OutEvent
deriving DecidableEq, Repr

/-- The state right after machine construction on `g` (R44, R305, R360). -/
def State.construct (g : Option Grid) : State where
  stack := []
  mem := ⟨1, []⟩
  memPtr := params.resetMemPtr
  callStack := []
  ipX := params.resetIp.1
  ipY := params.resetIp.2
  dir := params.resetDir
  halted := false
  grid := g
  output := []

/-- The machine right after reset, before a grid is handed over (R44; log 1). -/
def State.reset : State := State.construct none

/-- Why a step can fault. The spec's engine raises no fault in any state a run reaches (R330). -/
inductive Fault where
  /-- Raised by `fetch` in a state that is not halted and whose ip is outside the grid, where `GRID(x, y)` is not
  defined (R42, R132); no run reaches such a state (R45 item 1). Safe: the model stops (log 25). -/
  | fetchOutsideGrid
deriving DecidableEq, Repr

/-- Why a step can be refused. -/
inductive Refusal where
  /-- Raised by an arm of `exec` for an instruction without a meaning; no arm does. Safe. -/
  | notModelled (mnemonic : String)
  /-- Raised by `fetch` when no grid has been handed over: a `STEP` before `RESET` (R342, D26). Safe (log 26). -/
  | noGrid
  /-- Raised by `fetch` and `resetTransaction` for a grid that breaks the supplier's obligations: `W = 0`, `H = 0`, a
  side above `2^31 - 1`, or not `W * H` cells (R342, D12, D26). Safe (log 26). -/
  | gridRejected
deriving DecidableEq, Repr

end Sys2Proof.Machine
end

