-- ==== Sys2Proof/WellFormed.lean ====
section
/-! DEFINITION. Well-formed programs. Every term of `Instr` is well-formed: its operands have exactly the widths of
spec/30_encoding.md R93, so no operand is out of range and no check is left to make. What can be ill-formed is a
program: the Program Grid is handed over by a party whose obligations R342 and R363 state. -/

namespace Sys2Proof

/-- The bound on `W` and `H`: every in-grid coordinate is an `int32` (R5, the spec's D12; log 13). -/
def maxSide : Nat := 2 ^ 31 - 1

/-- `1 <= W <= 2^31 - 1` (R5, R301). -/
def Grid.widthOk (g : Grid) : Bool := decide (1 ≤ g.width) && decide (g.width ≤ maxSide)

/-- `1 <= H <= 2^31 - 1` (R5, R301). -/
def Grid.heightOk (g : Grid) : Bool := decide (1 ≤ g.height) && decide (g.height ≤ maxSide)

/-- The grid is total on `[0,W) x [0,H)` (R5): one cell for each position. -/
def Grid.cellsOk (g : Grid) : Bool := decide (g.cells.length = g.width * g.height)

/-- The grid supplier's obligations (R301, R342, R363 item 1). That every channel is in 0 to 255 is in the type. -/
def Grid.wellFormed (g : Grid) : Bool := g.widthOk && g.heightOk && g.cellsOk

end Sys2Proof
end

