-- ==== Sys2Proof/Machine/Ops.lean ====
section
/-! DEFINITION. The named operations over the stacks, the tape, the ip and the ports (spec/00_scope.md R7). The engine
takes no exception and has no trap to return from (spec/60_exceptions.md R330, R334, R335), so there is none here. -/

namespace Sys2Proof.Machine

/-! ### The data stack -/

/-- `Push(v)` (R22): never fails. -/
def State.push (v : Word) (s : State) : State := { s with stack := v :: s.stack }

/-- `Pop()` (R23): the value and the state after it; 0 and no change on an empty stack. -/
def State.pop (s : State) : Word × State :=
  match s.stack with
  | [] => (0, s)
  | v :: rest => (v, { s with stack := rest })

/-! ### The call stack -/

/-- `FramePush(x, y, d)` (R31): never fails. -/
def State.framePush (x y : Word) (d : Dir) (s : State) : State := { s with callStack := ⟨x, y, d⟩ :: s.callStack }

/-- The frame an empty call stack yields: position `(0, 0)`, EAST (R32). -/
def originFrame : Frame := ⟨0, 0, .east⟩

/-- `FramePop()` (R32). -/
def State.framePop (s : State) : Frame × State :=
  match s.callStack with
  | [] => (originFrame, s)
  | f :: rest => (f, { s with callStack := rest })

/-! ### The tape -/

/-- What an index below the length reads as while nothing is listed for it: the reset contents 1 at index 0 and the
zero fill elsewhere (R27, R44; log 8). -/
def Memory.unlisted (a : Nat) : Word := if a = 0 then 1 else 0

/-- The word listed for index `a`, if one is. -/
def findCell : List (Nat × Word) → Nat → Option Word
  | [], _ => none
  | (b, w) :: rest, a => if a = b then some w else findCell rest a

/-- The word of index `a` (R26); it is a cell of the tape when `a < m.len`. -/
def Memory.word (m : Memory) (a : Nat) : Word := (findCell m.cells a).getD (Memory.unlisted a)

/-- `Extend(i)` (R61): afterwards `mem_len = max(old mem_len, i + 1)` and every new cell holds 0. -/
def Memory.extend (m : Memory) (i : Nat) : Memory := { m with len := max m.len (i + 1) }

/-- The list of differing words after `mem[a] <- v`, in canonical form: no entry for a word that an unlisted index
reads as anyway. -/
def putCell (a : Nat) (v : Word) : List (Nat × Word) → List (Nat × Word)
  | [] => if v = Memory.unlisted a then [] else [(a, v)]
  | (b, w) :: rest =>
    if a < b then (if v = Memory.unlisted a then (b, w) :: rest else (a, v) :: (b, w) :: rest)
    else if a = b then (if v = Memory.unlisted a then rest else (a, v) :: rest)
    else (b, w) :: putCell a v rest

/-- `MemRead(addr, 1)` (R62): the word, and the tape after the extension. -/
def Memory.read (m : Memory) (a : Nat) : Word × Memory :=
  let m' := m.extend a
  (m'.word a, m')

/-- `MemWrite(addr, 1, v)` (R63). -/
def Memory.write (m : Memory) (a : Nat) (v : Word) : Memory :=
  let m' := m.extend a
  { m' with cells := putCell a v m'.cells }

/-- The tape as the spec's sequence, index 0 first (R26, R304). -/
def Memory.toList (m : Memory) : List Word := (List.range m.len).map m.word

/-- The canonical form: at least one cell, indices strictly rising and below the length, no entry equal to what an
unlisted index reads as. -/
abbrev Memory.wf (m : Memory) : Prop :=
  1 ≤ m.len ∧ (∀ c ∈ m.cells, c.1 < m.len ∧ c.2 ≠ Memory.unlisted c.1) ∧ m.cells.Pairwise (fun c d => c.1 < d.1)

/-- `MemRead(mem_ptr, 1)` on the state (R64). -/
def State.memRead (s : State) : Word × State :=
  let (v, m) := s.mem.read s.memPtr.toNat
  (v, { s with mem := m })

/-- `MemWrite(mem_ptr, 1, v)` on the state (R64). -/
def State.memWrite (v : Word) (s : State) : State := { s with mem := s.mem.write s.memPtr.toNat v }

/-- `mem_ptr <- p` followed by `Extend(mem_ptr)`: a pointer move that may raise the pointer (R61, R64). -/
def State.movePtr (p : MemPtr) (s : State) : State := { s with memPtr := p, mem := s.mem.extend p.toNat }

/-- `mem_ptr <- p` without an access to the tape: a pointer move that cannot raise the pointer (R64, R195). -/
def State.setPtr (p : MemPtr) (s : State) : State := { s with memPtr := p }

/-- `MEM_PTR_MAX = 2^31 - 1` (R28). -/
def memPtrMax : MemPtr := BitVec.allOnes 31

/-! ### The instruction pointer and the direction -/

/-- `ip <- (x, y)` (R7, R33). -/
def State.setIp (x y : Word) (s : State) : State := { s with ipX := x, ipY := y }

/-- `dir <- d` (R34). -/
def State.setDir (d : Dir) (s : State) : State := { s with dir := d }

/-- Displaces the ip `n` cells along `d` with 32-bit wrap (R36, the spec's D11; log 13). -/
def State.moveAlong (d : Dir) (n : Nat) (s : State) : State :=
  s.setIp (s32 (s.ipX.toInt + n * (params.dirDelta d).1)) (s32 (s.ipY.toInt + n * (params.dirDelta d).2))

/-- `Move(n)` (R36): along the current direction. -/
def State.move (n : Nat) (s : State) : State := s.moveAlong s.dir n

end Sys2Proof.Machine

/-! ### The grid -/

namespace Sys2Proof

/-- `InGrid(x, y)` (R42), on signed coordinates (R136). -/
def Grid.inGrid (g : Grid) (x y : Word) : Bool :=
  decide (0 ≤ x.toInt) && decide (x.toInt < g.width) && (decide (0 ≤ y.toInt) && decide (y.toInt < g.height))

/-- Where the cell at `(x, y)` stands in the list of cells, for an in-grid position (log 2). -/
def Grid.index (g : Grid) (x y : Word) : Nat := y.toNat * g.width + x.toNat

/-- `GRID(x, y)` (R42, R301): the cell at an in-grid position, none elsewhere. -/
def Grid.cellAt (g : Grid) (x y : Word) : Option Cell := if g.inGrid x y then g.cells[g.index x y]? else none

/-- The grid with cell `c` at an in-grid position: the grid supplier's work, never the engine's (R42, R74). -/
def Grid.withCell (g : Grid) (x y : Word) (c : Cell) : Grid := { g with cells := g.cells.set (g.index x y) c }

end Sys2Proof

/-! ### The halt test and the output port -/

namespace Sys2Proof.Machine

/-- Whether the position of the ip is in the grid of the run; false when there is none. -/
def State.ipInGrid (s : State) : Bool :=
  match s.grid with
  | none => false
  | some g => g.inGrid s.ipX s.ipY

/-- HALT TEST (R136): halts if the ip is outside the grid; nothing else writes `halted`. -/
def State.haltTest (s : State) : State := if s.ipInGrid then s else { s with halted := true }

/-- `Emit(kind, v)` (R303): one event, appended to the trace (log 4). -/
def State.emit (k : EventKind) (v : Word) (s : State) : State := { s with output := s.output ++ [⟨k, v⟩] }

end Sys2Proof.Machine
end

