-- ==== Sys2Proof/Machine/Flags.lean ====
section
/-! DEFINITION. Truth values. The engine has no condition codes (spec/10_state.md R38): comparisons and logical
operations deliver a stack value instead (spec/46_alu.md R242). -/

namespace Sys2Proof.Machine

/-- 1 for true, 0 for false (R242). -/
def truthWord (b : Bool) : Word := if b then 1 else 0

/-- Any nonzero integer is true (R242). -/
def truthOf (v : Word) : Bool := decide (v ≠ 0)

end Sys2Proof.Machine
end

