-- ==== Sys2Proof/Machine/Operands.lean ====
section
/-! DEFINITION. Operand forms: the zero-extended fields of the cell (spec/30_encoding.md R93) and the pop templates of
the ALU (spec/46_alu.md R240, R241, R265). Every handler ends in a next state: no handler can fail (R134). -/

namespace Sys2Proof.Machine

/-- The outcome of a handler. -/
abbrev Result := Host.Outcome State Fault Refusal

/-- `imm16` as a value, zero-extended (R93). -/
def imm16Word (n : BitVec 16) : Word := n.setWidth 32

/-- `g8` or `b8` as a value, zero-extended (R93). -/
def byteWord (v : Byte) : Word := v.setWidth 32

/-- The binary template (R240): `x` is popped first and is the left operand. -/
def binary (op : Word → Word → Word) (s : State) : Result :=
  let (x, s1) := s.pop
  let (y, s2) := s1.pop
  .next (s2.push (op x y))

/-- The unary template (R241). -/
def unary (op : Word → Word) (s : State) : Result :=
  let (x, s1) := s.pop
  .next (s1.push (op x))

/-- The reserved subcodes of family 11 (R265): both operands are popped and nothing is pushed (log 21). -/
def popTwo (s : State) : Result :=
  let (_, s1) := s.pop
  let (_, s2) := s1.pop
  .next s2

/-- A handler that does nothing (R99). -/
def noEffect (s : State) : Result := .next s

/-- Pops the target of an absolute transfer, row first, and sets the ip to it (R170). -/
def indirectJump (s : State) : State :=
  let (ty, s1) := s.pop
  let (tx, s2) := s1.pop
  s2.setIp tx ty

/-- Pops one value and emits it as `k` (R290, R292). -/
def popEmit (k : EventKind) (s : State) : Result :=
  let (v, s1) := s.pop
  .next (s1.emit k v)

end Sys2Proof.Machine
end

