-- ==== Sys2Proof/Machine/Arith.lean ====
section
/-! DEFINITION. The integer laws of the arithmetic and logical unit (spec/46_alu.md R243): exact results on integers,
narrowed explicitly; each law the document leaves open takes its parameter of `Config` as an argument. -/

namespace Sys2Proof.Machine

/-- The smallest `int32` (R6). -/
def intMin : Int := -(2 ^ 31)

/-- The largest `int32` (R6). -/
def intMax : Int := 2 ^ 31 - 1

/-- The word delivered for an exact result, by `OVERFLOW` (R243 item 1; U6; log 16). -/
def narrow (o : Overflow) (v : Int) : Word :=
  match o with
  | .wrap => s32 v
  | .saturate => s32 (max intMin (min intMax v))

/-- `x + y` (R244). -/
def addWord (o : Overflow) (x y : Word) : Word := narrow o (x.toInt + y.toInt)

/-- `x - y` (R245). -/
def subWord (o : Overflow) (x y : Word) : Word := narrow o (x.toInt - y.toInt)

/-- `x * y` (R246). -/
def mulWord (o : Overflow) (x y : Word) : Word := narrow o (x.toInt * y.toInt)

/-- The exact quotient rounded to an integer, by `DIV_ROUND` (R243 item 2; U7; log 17). -/
def quotient (r : DivRound) (x y : Int) : Int :=
  match r with
  | .truncate => x.tdiv y
  | .floor => x.fdiv y

/-- `x / y`, 0 for a zero divisor (R247). -/
def divWord (r : DivRound) (o : Overflow) (x y : Word) : Word :=
  if y = 0 then 0 else narrow o (quotient r x.toInt y.toInt)

/-- `x - y * (x / y)`, 0 for a zero divisor (R248; U8). -/
def modWord (r : DivRound) (x y : Word) : Word :=
  if y = 0 then 0 else s32 (x.toInt - y.toInt * quotient r x.toInt y.toInt)

/-- `floor(x / 2^n)` (R253). -/
def sarWord (x : Word) (n : Nat) : Word := s32 (x.toInt / 2 ^ n)

/-- `floor(u32(x) / 2^n)` (R254). -/
def shrWord (x : Word) (n : Nat) : Word := s32 ((u32 x : Int) / 2 ^ n)

/-- `x * 2^n` (R255). -/
def shlWord (o : Overflow) (x : Word) (n : Nat) : Word := narrow o (x.toInt * 2 ^ n)

/-- `x < y`, by the signedness of the ordered comparisons (R243 item 5; U10; log 19). -/
def lessThan (signed : Bool) (x y : Word) : Bool :=
  if signed then decide (x.toInt < y.toInt) else decide (u32 x < u32 y)

end Sys2Proof.Machine
end

