-- ==== Sys2Proof/Machine/Alu.lean ====
section
/-! DEFINITION. The arithmetic and logical unit, family 11 (spec/46_alu.md): in every binary operation `x` is the old
top of stack and the left operand (R240). -/

namespace Sys2Proof.Machine

/-- `ADD` (R244). -/
def execAdd (s : State) : Result := binary (fun x y => addWord params.overflow x y) s

/-- `SUB` (R245). -/
def execSub (s : State) : Result := binary (fun x y => subWord params.overflow x y) s

/-- `MUL` (R246). -/
def execMul (s : State) : Result := binary (fun x y => mulWord params.overflow x y) s

/-- `DIV` (R247). -/
def execDiv (s : State) : Result := binary (fun x y => divWord params.divRound params.overflow x y) s

/-- `MOD` (R248). -/
def execMod (s : State) : Result := binary (fun x y => modWord params.divRound x y) s

/-- `OR` (R249). -/
def execOr (s : State) : Result := binary (fun x y => x ||| y) s

/-- `AND` (R250). -/
def execAnd (s : State) : Result := binary (fun x y => x &&& y) s

/-- `XOR` (R251). -/
def execXor (s : State) : Result := binary (fun x y => x ^^^ y) s

/-- `NOT` (R252). -/
def execNot (s : State) : Result := unary (fun x => ~~~x) s

/-- `SAR` (R253). -/
def execSar (s : State) : Result := binary (fun x y => sarWord x (params.shiftCount y)) s

/-- `SHR` (R254). -/
def execShr (s : State) : Result := binary (fun x y => shrWord x (params.shiftCount y)) s

/-- `SHL` (R255). -/
def execShl (s : State) : Result := binary (fun x y => shlWord params.overflow x (params.shiftCount y)) s

/-- `EQ` (R256). -/
def execEq (s : State) : Result := binary (fun x y => truthWord (decide (x = y))) s

/-- `NE` (R257). -/
def execNe (s : State) : Result := binary (fun x y => truthWord (decide (x ≠ y))) s

/-- `GT` (R258). -/
def execGt (s : State) : Result := binary (fun x y => truthWord (lessThan params.signedCompare y x)) s

/-- `LT` (R259). -/
def execLt (s : State) : Result := binary (fun x y => truthWord (lessThan params.signedCompare x y)) s

/-- `GE` (R260). -/
def execGe (s : State) : Result := binary (fun x y => truthWord (!lessThan params.signedCompare x y)) s

/-- `LE` (R261). -/
def execLe (s : State) : Result := binary (fun x y => truthWord (!lessThan params.signedCompare y x)) s

/-- `LAND` (R262). -/
def execLand (s : State) : Result := binary (fun x y => truthWord (truthOf x && truthOf y)) s

/-- `LOR` (R263). -/
def execLor (s : State) : Result := binary (fun x y => truthWord (truthOf x || truthOf y)) s

/-- `LNOT` (R264). -/
def execLnot (s : State) : Result := unary (fun x => truthWord (!truthOf x)) s

/-- `RSVD_A21` (R265; the spec's D20; log 21). -/
def execRsvdA21 (s : State) : Result := popTwo s

/-- `RSVD_A22` (R266; the spec's D20; log 21). -/
def execRsvdA22 (s : State) : Result := popTwo s

/-- `RSVD_A23` (R267; the spec's D20; log 21). -/
def execRsvdA23 (s : State) : Result := popTwo s

/-- `RSVD_A24` (R268; the spec's D20; log 21). -/
def execRsvdA24 (s : State) : Result := popTwo s

/-- `RSVD_A25` (R269; the spec's D20; log 21). -/
def execRsvdA25 (s : State) : Result := popTwo s

/-- `RSVD_A26` (R270; the spec's D20; log 21). -/
def execRsvdA26 (s : State) : Result := popTwo s

/-- `RSVD_A27` (R271; the spec's D20; log 21). -/
def execRsvdA27 (s : State) : Result := popTwo s

/-- `RSVD_A28` (R272; the spec's D20; log 21). -/
def execRsvdA28 (s : State) : Result := popTwo s

/-- `RSVD_A29` (R273; the spec's D20; log 21). -/
def execRsvdA29 (s : State) : Result := popTwo s

/-- `RSVD_A30` (R274; the spec's D20; log 21). -/
def execRsvdA30 (s : State) : Result := popTwo s

/-- `RSVD_A31` (R275; the spec's D20; log 21). -/
def execRsvdA31 (s : State) : Result := popTwo s

end Sys2Proof.Machine
end

