-- ==== Sys2Proof/Machine/Constants.lean ====
section
/-! DEFINITION. The constant pushes, families 8 and 9 (spec/44_constants.md). -/

namespace Sys2Proof.Machine

/-- `PUSH16 n` (R210). -/
def execPush16 (n : BitVec 16) (s : State) : Result := .next (s.push (imm16Word n))

/-- `PUSH2 g, b` (R211): `b` ends on top. -/
def execPush2 (g b : Byte) (s : State) : Result := .next ((s.push (byteWord g)).push (byteWord b))

end Sys2Proof.Machine
end

