-- ==== Sys2Proof/Machine/Engine.lean ====
section
/-! DEFINITION. The parts of one step around the handler: FETCH, ADVANCE with the HALT TEST, and the report
(spec/40_step_engine.md R130 to R138), the RESET transaction and the inspection port (spec/48_interfaces.md R304, R305),
and the handlers of NOP and the reserved families (R140 to R145). -/

namespace Sys2Proof.Machine

/-- FETCH (R132): the cell at the ip. No grid, and a grid that breaks its supplier's obligations, are refused (R342;
log 26); a position outside the grid is a fault no run reaches (log 25). -/
def fetch (s : State) : Host.Outcome Cell Fault Refusal :=
  match s.grid with
  | none => .refused .noGrid
  | some g =>
    if g.wellFormed then
      match g.cellAt s.ipX s.ipY with
      | some c => .next c
      | none => .fault .fetchOutsideGrid
    else .refused .gridRejected

/-- ADVANCE and HALT TEST (R135, R136) on the state the handler left; `atFetch` is the direction the cell was entered
with, which `ADVANCE_DIR` may select (U19; log 12). -/
def finishStep (atFetch : Dir) (s : State) : State :=
  match params.advanceDir with
  | .postHandler => (s.move 1).haltTest
  | .atFetch => (s.moveAlong atFetch 1).haltTest

/-- REPORT (R131, R137): what a STEP request made in state `s` answers (log 5). DESIGN CHOICE: for a request that `step`
refuses or faults on (no grid, a rejected grid, a running ip outside the grid) the spec assigns no answer (R342, D26), and
`report` reads the halted flag alone there too, so `report State.reset` is `stepTaken` while `step` refuses (log 33). -/
def report (s : State) : Report := if s.halted then .noStep else .stepTaken

/-- `RESET` (R305): construction on a grid, every state element at its reset value; a grid that breaks the supplier's
obligations is refused (R342). -/
def resetTransaction (g : Grid) : Result :=
  if g.wellFormed then .next (State.construct (some g)) else .refused .gridRejected

/-- What the inspection port shows (R304): the eight elements of R20, sequences bottom or index 0 first. -/
structure Inspection where
  stack : List Word
  mem : List Word
  memPtr : MemPtr
  callStack : List Frame
  ipX : Word
  ipY : Word
  dir : Dir
  halted : Bool
deriving DecidableEq, Repr

/-- `INSPECT` (R304): a view, so it changes no state and extends no tape. -/
def inspect (s : State) : Inspection where
  stack := s.stack.reverse
  mem := s.mem.toList
  memPtr := s.memPtr
  callStack := s.callStack.reverse
  ipX := s.ipX
  ipY := s.ipY
  dir := s.dir
  halted := s.halted

/-- `NOP` (R140). -/
def execNop (s : State) : Result := noEffect s

/-- `RSVD_F6` (R141). -/
def execRsvdF6 (s : State) : Result := noEffect s

/-- `RSVD_F7` (R142). -/
def execRsvdF7 (s : State) : Result := noEffect s

/-- `RSVD_F13` (R143). -/
def execRsvdF13 (s : State) : Result := noEffect s

/-- `RSVD_F14` (R144). -/
def execRsvdF14 (s : State) : Result := noEffect s

/-- `RSVD_F15` (R145). -/
def execRsvdF15 (s : State) : Result := noEffect s

end Sys2Proof.Machine
end

