-- ==== Sys2Proof/Machine/InputOutput.lean ====
section
/-! DEFINITION. The input and output instructions, family 12, and the text a sink shows for an event
(spec/47_io.md). -/

namespace Sys2Proof.Machine

/-- `OUTC` (R290): the full 32-bit value goes out. -/
def execOutc (s : State) : Result := popEmit .char s

/-- What the read-char stub does, by `READ_CHAR` (U4; log 22). -/
def readCharStub (c : ReadChar) (s : State) : State :=
  match c with
  | .noop => s
  | .pushZero => s.push 0
  | .pushSentinel v => s.push v

/-- `INCH` (R291): no input is read; C2 resolves for the no-op. -/
def execInch (s : State) : Result := .next (readCharStub params.readChar s)

/-- `OUTI` (R292). -/
def execOuti (s : State) : Result := popEmit .int s

/-- `RSVD_IO3` (R293; the spec's D21; log 21). -/
def execRsvdIo3 (s : State) : Result := noEffect s

/-! ### The sink's text (R294) -/

/-- The digit character of `0 .. 9`. -/
def digitChar (d : Nat) : Char := Char.ofNat ('0'.toNat + d)

/-- The decimal digits of `n`, most significant first, put before `acc`; `fuel` bounds their number. -/
def decimalDigits : Nat → Nat → List Char → List Char
  | 0, _, acc => acc
  | fuel + 1, n, acc =>
    let acc' := digitChar (n % 10) :: acc
    if n / 10 = 0 then acc' else decimalDigits fuel (n / 10) acc'

/-- The shortest decimal numeral of an `int32`, with a leading `-` for a negative value: no grouping, padding or
terminator (R294, the spec's D23; log 24). An `int32` has at most ten digits. -/
def decimalText (v : Word) : List Char :=
  if v.toInt < 0 then '-' :: decimalDigits 10 v.toInt.natAbs [] else decimalDigits 10 v.toInt.natAbs []

/-- The character of a `(CHAR, v)` event: ASCII for 0 to 127, the sink's choice otherwise (R294; log 24). -/
def charText (v : Word) : Char := if u32 v ≤ 127 then Char.ofNat (u32 v) else Config.charOf v

/-- The text a sink appends for one event (R294). -/
def renderEvent (e : OutEvent) : List Char :=
  match e.kind with
  | .char => [charText e.value]
  | .int => decimalText e.value

/-- The text of a trace: nothing is inserted between events (R292, R294). -/
def renderOutput (es : List OutEvent) : List Char := es.flatMap renderEvent

end Sys2Proof.Machine
end

