-- ==== Sys2Proof/Machine/Jumps.lean ====
section
/-! DEFINITION. Set direction and the relative jumps, families 1, 2 and 3 (spec/41_direction_and_jumps.md). -/

namespace Sys2Proof.Machine

/-- `DIR d` (R150). -/
def execDir (d : Dir) (s : State) : Result := .next (s.setDir d)

/-- `JMP n` (R151). -/
def execJmp (n : BitVec 16) (s : State) : Result := .next (s.move n.toNat)

/-- `JZ n` (R152): the value is popped whether or not the jump is taken. -/
def execJz (n : BitVec 16) (s : State) : Result :=
  let (v, s1) := s.pop
  if v = 0 then .next (s1.move n.toNat) else .next s1

end Sys2Proof.Machine
end

