-- ==== Sys2Proof/Machine/Stack.lean ====
section
/-! DEFINITION. The stack operations, family 10, each the literal pop and push sequence of spec/45_stack_ops.md. -/

namespace Sys2Proof.Machine

/-- The four pushes of DUP2 for the old top `x` and the old second `y`, by `DUP2_ORDER` (R223; C1; log 23). -/
def pushPairTwice (o : Dup2Order) (x y : Word) (s : State) : State :=
  match o with
  | .xyxy => (((s.push x).push y).push x).push y
  | .yxyx => (((s.push y).push x).push y).push x

/-- `DROP` (R220). -/
def execDrop (s : State) : Result := .next s.pop.2

/-- `DUP` (R221). -/
def execDup (s : State) : Result :=
  let (v, s1) := s.pop
  .next ((s1.push v).push v)

/-- `SWAP` (R222). -/
def execSwap (s : State) : Result :=
  let (a, s1) := s.pop
  let (c, s2) := s1.pop
  .next ((s2.push a).push c)

/-- `DUP2` (R223). -/
def execDup2 (s : State) : Result :=
  let (x, s1) := s.pop
  let (y, s2) := s1.pop
  .next (pushPairTwice params.dup2Order x y s2)

end Sys2Proof.Machine
end

