-- ==== Sys2Proof/Machine/Tape.lean ====
section
/-! DEFINITION. The memory-tape instructions, family 5 (spec/43_memory_ops.md). -/

namespace Sys2Proof.Machine

/-- The pointer SETP takes from a popped value: clamped at 0 (R192). -/
def clampPtr (v : Word) : MemPtr := if v.toInt < 0 then 0 else BitVec.ofInt 31 v.toInt

/-- `STORE` (R190). -/
def execStore (s : State) : Result :=
  let (v, s1) := s.pop
  .next (s1.memWrite v)

/-- `LOAD` (R191). -/
def execLoad (s : State) : Result :=
  let (v, s1) := s.memRead
  .next (s1.push v)

/-- `SETP` (R192). -/
def execSetp (s : State) : Result :=
  let (v, s1) := s.pop
  .next (s1.movePtr (clampPtr v))

/-- `GETP` (R193): the pointer is a non-negative `int32`. -/
def execGetp (s : State) : Result := .next (s.push (s.memPtr.setWidth 32))

/-- `INCP` (R194): at `MEM_PTR_MAX` the pointer becomes `PTR_INC_AT_MAX` (the spec's D14: it stays; log 15). -/
def execIncp (s : State) : Result :=
  .next (s.movePtr (if s.memPtr < memPtrMax then s.memPtr + 1 else params.ptrIncAtMax))

/-- `DECP` (R195): clamped at 0; the tape is not touched. -/
def execDecp (s : State) : Result := .next (if 0 < s.memPtr then s.setPtr (s.memPtr - 1) else s)

/-- `RSVD_M6` (R196; the spec's D21; log 21). -/
def execRsvdM6 (s : State) : Result := noEffect s

/-- `RSVD_M7` (R197; the spec's D21; log 21). -/
def execRsvdM7 (s : State) : Result := noEffect s

end Sys2Proof.Machine
end

