-- ==== Sys2Proof/Machine/Translocate.lean ====
section
/-! DEFINITION. Translocate, family 4: indirect jump, call, return (spec/42_translocate.md). -/

namespace Sys2Proof.Machine

/-- `IJMP` (R170). -/
def execIjmp (s : State) : Result := .next (indirectJump s)

/-- `CALL` (R171): the frame holds the position of the CALL cell itself. -/
def execCall (s : State) : Result := .next (indirectJump (s.framePush s.ipX s.ipY s.dir))

/-- `RET` (R172). -/
def execRet (s : State) : Result :=
  let (f, s1) := s.framePop
  .next ((s1.setIp f.x f.y).setDir f.d)

/-- `RSVD_T3` (R173; the spec's D21; log 21). -/
def execRsvdT3 (s : State) : Result := noEffect s

end Sys2Proof.Machine
end

