-- ==== Sys2Proof/Machine/Dispatch.lean ====
section
/-! DEFINITION. EXECUTE: the handler of each instruction (spec/40_step_engine.md R134), one arm per row of
spec/opcode_table.json. -/

namespace Sys2Proof.Machine

/-- EXECUTE (R134). -/
def exec (i : Instr) (s : State) : Host.Outcome State Fault Refusal :=
  match i with
  | .nop => Sys2Proof.Machine.execNop s
  | .dir d => Sys2Proof.Machine.execDir d s
  | .jmp n => Sys2Proof.Machine.execJmp n s
  | .jz n => Sys2Proof.Machine.execJz n s
  | .ijmp => Sys2Proof.Machine.execIjmp s
  | .call => Sys2Proof.Machine.execCall s
  | .ret => Sys2Proof.Machine.execRet s
  | .rsvdT3 => Sys2Proof.Machine.execRsvdT3 s
  | .store => Sys2Proof.Machine.execStore s
  | .load => Sys2Proof.Machine.execLoad s
  | .setp => Sys2Proof.Machine.execSetp s
  | .getp => Sys2Proof.Machine.execGetp s
  | .incp => Sys2Proof.Machine.execIncp s
  | .decp => Sys2Proof.Machine.execDecp s
  | .rsvdM6 => Sys2Proof.Machine.execRsvdM6 s
  | .rsvdM7 => Sys2Proof.Machine.execRsvdM7 s
  | .rsvdF6 => Sys2Proof.Machine.execRsvdF6 s
  | .rsvdF7 => Sys2Proof.Machine.execRsvdF7 s
  | .push16 n => Sys2Proof.Machine.execPush16 n s
  | .push2 g b => Sys2Proof.Machine.execPush2 g b s
  | .drop => Sys2Proof.Machine.execDrop s
  | .dup => Sys2Proof.Machine.execDup s
  | .swap => Sys2Proof.Machine.execSwap s
  | .dup2 => Sys2Proof.Machine.execDup2 s
  | .add => Sys2Proof.Machine.execAdd s
  | .sub => Sys2Proof.Machine.execSub s
  | .mul => Sys2Proof.Machine.execMul s
  | .div => Sys2Proof.Machine.execDiv s
  | .mod => Sys2Proof.Machine.execMod s
  | .or => Sys2Proof.Machine.execOr s
  | .and => Sys2Proof.Machine.execAnd s
  | .xor => Sys2Proof.Machine.execXor s
  | .not => Sys2Proof.Machine.execNot s
  | .sar => Sys2Proof.Machine.execSar s
  | .shr => Sys2Proof.Machine.execShr s
  | .shl => Sys2Proof.Machine.execShl s
  | .eq => Sys2Proof.Machine.execEq s
  | .ne => Sys2Proof.Machine.execNe s
  | .gt => Sys2Proof.Machine.execGt s
  | .lt => Sys2Proof.Machine.execLt s
  | .ge => Sys2Proof.Machine.execGe s
  | .le => Sys2Proof.Machine.execLe s
  | .land => Sys2Proof.Machine.execLand s
  | .lor => Sys2Proof.Machine.execLor s
  | .lnot => Sys2Proof.Machine.execLnot s
  | .rsvdA21 => Sys2Proof.Machine.execRsvdA21 s
  | .rsvdA22 => Sys2Proof.Machine.execRsvdA22 s
  | .rsvdA23 => Sys2Proof.Machine.execRsvdA23 s
  | .rsvdA24 => Sys2Proof.Machine.execRsvdA24 s
  | .rsvdA25 => Sys2Proof.Machine.execRsvdA25 s
  | .rsvdA26 => Sys2Proof.Machine.execRsvdA26 s
  | .rsvdA27 => Sys2Proof.Machine.execRsvdA27 s
  | .rsvdA28 => Sys2Proof.Machine.execRsvdA28 s
  | .rsvdA29 => Sys2Proof.Machine.execRsvdA29 s
  | .rsvdA30 => Sys2Proof.Machine.execRsvdA30 s
  | .rsvdA31 => Sys2Proof.Machine.execRsvdA31 s
  | .outc => Sys2Proof.Machine.execOutc s
  | .inch => Sys2Proof.Machine.execInch s
  | .outi => Sys2Proof.Machine.execOuti s
  | .rsvdIo3 => Sys2Proof.Machine.execRsvdIo3 s
  | .rsvdF13 => Sys2Proof.Machine.execRsvdF13 s
  | .rsvdF14 => Sys2Proof.Machine.execRsvdF14 s
  | .rsvdF15 => Sys2Proof.Machine.execRsvdF15 s

end Sys2Proof.Machine
end

