-- ==== Sys2Proof/Machine/Step.lean ====
section
/-! DEFINITION. One STEP request (spec/40_step_engine.md R130), and the load of an instruction where the next step
fetches. -/

namespace Sys2Proof.Machine

/-- `Step()` (R130): a halted machine is left as it is (R131); otherwise FETCH, DECODE, EXECUTE, ADVANCE, HALT TEST. -/
def step (s : State) : Host.Outcome State Fault Refusal :=
  if s.halted then .next s
  else
    match fetch s with
    | .next c =>
      match exec (decode c) s with
      | .next t => .next (finishStep s.dir t)
      | .fault f => .fault f
      | .refused r => .refused r
    | .fault f => .fault f
    | .refused r => .refused r

/-- `s` with the cell `w` where the next step fetches (log 3): in the grid of the run when the ip is in it, else in a
grid of one cell with the ip at its origin; the machine is not halted, or nothing would be fetched. -/
def State.withFetchWord (s : State) (nbits w : Nat) : State :=
  let c := Cell.ofWord24 (BitVec.ofNat 24 (w % 2 ^ nbits))
  match s.grid with
  | some g =>
    if g.wellFormed && g.inGrid s.ipX s.ipY then
      { s with halted := false, grid := some (g.withCell s.ipX s.ipY c) }
    else { s with halted := false, ipX := 0, ipY := 0, grid := some ⟨1, 1, [c]⟩ }
  | none => { s with halted := false, ipX := 0, ipY := 0, grid := some ⟨1, 1, [c]⟩ }

end Sys2Proof.Machine
end

