-- ==== Sys2Proof/Safety.lean ====
section
/-! DEFINITION. The terms the statements use: the operands an instruction finds, the well-formedness of a state
(spec/10_state.md R45), what the next step executes, and the states a run reaches. -/

namespace Sys2Proof.Machine

/-! ### Operands as the stack holds them -/

/-- The value a first pop yields: the top, 0 on an empty stack (R23). -/
def State.top (s : State) : Word := s.stack.headD 0

/-- The value a second pop yields (R24). -/
def State.second (s : State) : Word := s.stack.tail.headD 0

/-- The stack after two pops (R24). -/
def State.belowTwo (s : State) : List Word := s.stack.tail.tail

/-- The frame a `FramePop` yields: the top frame, `(0, 0, EAST)` on an empty call stack (R32). -/
def State.topFrame (s : State) : Frame := s.callStack.headD ⟨0, 0, .east⟩

/-! ### Unit moves as words -/

/-- `dx` of each direction (R35; log 11). -/
def unitX : Dir → Word
  | .east => 1
  | .west => -1
  | _ => 0

/-- `dy` of each direction (R35; log 11). -/
def unitY : Dir → Word
  | .south => 1
  | .north => -1
  | _ => 0

/-! ### What a step executes -/

/-- The next step of `s` executes `i`: the machine is running and the cell it fetches decodes to `i`. -/
structure Executes (s : State) (i : Instr) : Prop where
  running : s.halted = false
  fetched : ∃ c, fetch s = .next c ∧ decode c = i

/-! ### Well-formed states and runs -/

/-- The frame's position is in the grid of the run. -/
def State.frameInGrid (s : State) (f : Frame) : Bool := s.grid.any (fun g => g.inGrid f.x f.y)

/-- The invariants of R45 (items 4 to 6 hold by the fields' types), with the tape in its canonical form and the grid as
its supplier owes it. Without a grid (before `RESET`) there is no position to be in or out of. -/
structure Inv (s : State) : Prop where
  /-- The grid, if one was handed over, is as R363 item 1 requires. -/
  grid_ok : s.grid.all Grid.wellFormed = true
  /-- Item 1. -/
  running_in_grid : s.grid.isSome = true → s.halted = false → s.ipInGrid = true
  /-- Item 2. -/
  halted_outside : s.halted = true → s.ipInGrid = false
  /-- The canonical form, with `mem_len >= 1` of item 3. -/
  mem_wf : s.mem.wf
  /-- `TAPE_CAP` (R5). -/
  mem_cap : s.mem.len ≤ 2 ^ 31
  /-- Item 3: the pointer is in the tape. -/
  ptr_in_tape : s.memPtr.toNat < s.mem.len
  /-- Item 7. -/
  frames_in_grid : s.callStack.all s.frameInGrid = true

/-- The states of the runs on `g` (R146): from construction on `g`, by steps. -/
inductive Reachable (g : Grid) : State → Prop where
  | start : Reachable g (State.construct (some g))
  | next {s t : State} : Reachable g s → step s = .next t → Reachable g t

/-- A safe state: a STEP request neither faults nor is refused (R330). -/
def StepsOn (s : State) : Prop := ∃ t, step s = .next t

end Sys2Proof.Machine
end

