-- ==== Sys2Proof/Certificates/Slice0/Obligations.lean ====
section
/-! DEFINITION. The statements for the provers. A statement of basis `stated` says the whole of the rules it cites; one
that rests on a decision the spec marks as its own names the decision and the log entry. -/

open Sys2Proof Sys2Proof.Machine

/-! ### Encoding -/

/-- Decoding the canonical encoding of any instruction gives the instruction back, for every value of its operands
(the map of R96 and the canonical encodings of R100). -/
def Obligations.DecodeInvertsEncode : Prop :=
  ∀ i : Instr, decode (encode i) = i

/-- Encoding what a cell decodes to gives the cell back with its don't-care bits cleared (R95, R100). -/
def Obligations.EncodeOfDecodeClearsDontCareBits : Prop :=
  ∀ c : Cell, (encode (decode c)).word24 = c.word24 &&& careMask (decode c)

/-- Two cells that agree outside the don't-care bits decode to the same instruction (R95). -/
def Obligations.DecodeIgnoresDontCareBits : Prop :=
  ∀ c d : Cell, d.word24 &&& careMask (decode c) = c.word24 &&& careMask (decode c) → decode d = decode c

/-- A cell matches the row of the opcode table it decodes to, by the table's own mask and match columns, and every row
that matches it is that row: the map is total and unambiguous (R94), with the family and subcode numbers of R96 and R97
(the family-11 numbers are the spec's D19, log 20); and the canonical encoding of an instruction matches its row. -/
def Obligations.EachCellMatchesExactlyItsRow : Prop :=
  (∀ c : Cell, c.word24 &&& selectMask (decode c) = tableMatch (decode c) ∧
    ∀ i : Instr, c.word24 &&& selectMask i = tableMatch i →
      selectMask i = selectMask (decode c) ∧ tableMatch i = tableMatch (decode c)) ∧
  ∀ i : Instr, (encode i).word24 &&& selectMask i = tableMatch i ∧ (encode i).word24 &&& careMask i = (encode i).word24

/-- Some cells of the table of R100, at least one of each family, and of the vectors of spec/95_test_vectors.md with
don't-care bits set; the family-11 numbers other than 3 are the spec's D19, log 20. -/
def Obligations.SampleWordsDecode : Prop :=
  decode ⟨0x00, 0x00, 0x00⟩ = .nop ∧ decode ⟨0x01, 0x00, 0x00⟩ = .dir .east ∧
  decode ⟨0x01, 0x00, 0x01⟩ = .dir .south ∧ decode ⟨0x01, 0x00, 0x03⟩ = .dir .north ∧
  decode ⟨0x02, 0x01, 0x02⟩ = .jmp 258 ∧ decode ⟨0x03, 0x02, 0x01⟩ = .jz 513 ∧
  decode ⟨0x04, 0x00, 0x00⟩ = .ijmp ∧ decode ⟨0x04, 0x00, 0x02⟩ = .ret ∧
  decode ⟨0x06, 0x00, 0x00⟩ = .rsvdF6 ∧ decode ⟨0x07, 0x00, 0x00⟩ = .rsvdF7 ∧
  decode ⟨0x09, 0x06, 0x03⟩ = .push2 6 3 ∧
  decode ⟨0x0A, 0x00, 0x01⟩ = .dup ∧ decode ⟨0x0A, 0x00, 0x02⟩ = .swap ∧ decode ⟨0x0A, 0x00, 0x03⟩ = .dup2 ∧
  decode ⟨0x0B, 0x00, 0x00⟩ = .add ∧ decode ⟨0x0B, 0x00, 0x01⟩ = .sub ∧ decode ⟨0x0B, 0x00, 0x08⟩ = .not ∧
  decode ⟨0x0B, 0x00, 0x0E⟩ = .gt ∧ decode ⟨0x0B, 0x00, 0x14⟩ = .lnot ∧ decode ⟨0x0B, 0x00, 0x1F⟩ = .rsvdA31 ∧
  decode ⟨0x0C, 0x00, 0x00⟩ = .outc ∧ decode ⟨0x0C, 0x00, 0x01⟩ = .inch ∧
  decode ⟨0x0D, 0x00, 0x00⟩ = .rsvdF13 ∧ decode ⟨0x0E, 0x00, 0x00⟩ = .rsvdF14 ∧
  decode ⟨0x08, 0x01, 0x2C⟩ = .push16 300 ∧ decode ⟨0x01, 0x00, 0xFE⟩ = .dir .west ∧
  decode ⟨0x04, 0x00, 0xFD⟩ = .call ∧ decode ⟨0x05, 0x00, 0x0C⟩ = .incp ∧ decode ⟨0x2B, 0x77, 0x23⟩ = .div ∧
  decode ⟨0x0C, 0x00, 0xFE⟩ = .outi ∧ decode ⟨0xFF, 0xFF, 0xFF⟩ = .rsvdF15

/-- A word of the opcode table is read as `65536*r + 256*g + b` (R91, the spec's D4; log 27), and a number that does not
fit a cell is none. -/
def Obligations.TableWordIsThePackedCell : Prop :=
  ∀ w : Nat,
    (w < 2 ^ 24 → decodeTableWord 24 w =
      some (decode ⟨BitVec.ofNat 8 (w / 65536), BitVec.ofNat 8 (w / 256), BitVec.ofNat 8 w⟩)) ∧
    ∀ nbits, 2 ^ 24 ≤ w → w < 2 ^ nbits → decodeTableWord nbits w = none

/-! ### The step engine -/

/-- When the cell under the ip of a running machine decodes to `i` and `i`'s handler answers `t`, the step answers `t`
moved one cell along the direction the handler left, then tested for halt; the request is reported taken (R130, R135;
the advance uses the direction after the handler, the spec's D9, log 12). -/
def Obligations.StepRunsTheDecodedInstruction : Prop :=
  ∀ (s t : State) (c : Cell), s.halted = false → fetch s = .next c → exec (decode c) s = .next t →
    step s = .next (t.move 1).haltTest ∧ report s = .stepTaken

/-- The instruction of a table word, loaded by `withFetchWord`, is the one the very next step executes, and the load
leaves the stacks, the tape, the pointer, the direction and the trace as they were. -/
def Obligations.LoadedWordIsExecutedNext : Prop :=
  ∀ (s : State) (nbits w : Nat) (i : Instr), decodeTableWord nbits w = some i →
    Executes (s.withFetchWord nbits w) i ∧
    (s.withFetchWord nbits w).stack = s.stack ∧ (s.withFetchWord nbits w).mem = s.mem ∧
    (s.withFetchWord nbits w).memPtr = s.memPtr ∧ (s.withFetchWord nbits w).callStack = s.callStack ∧
    (s.withFetchWord nbits w).dir = s.dir ∧ (s.withFetchWord nbits w).output = s.output

/-- Any number of step requests on a halted machine change nothing and are reported as no step (R131). -/
def Obligations.HaltedMachineIgnoresSteps : Prop :=
  ∀ (s : State) (n : Nat), s.halted = true →
    step s = .next s ∧ Host.Core.run Sys2Proof.core n s = .next s ∧ report s = .noStep

/-- A request is reported taken exactly when the machine it finds is not halted, so also when the step halts it (R131,
R137). For a request that `step` refuses or faults on the answer is the model's choice (log 33). -/
def Obligations.ReportSaysWhetherAStepWasTaken : Prop :=
  ∀ s : State, (report s = .stepTaken ↔ s.halted = false) ∧ (report s = .noStep ↔ s.halted = true)

/-- A step taken leaves the machine halted exactly when the new position is outside `[0,W) x [0,H)`, and no handler by
itself changes `halted` (R136, R37). -/
def Obligations.StepHaltsExactlyOutsideTheGrid : Prop :=
  (∀ (s t : State) (g : Grid), s.halted = false → s.grid = some g → step s = .next t →
    (t.halted = true ↔
      ¬ (0 ≤ t.ipX.toInt ∧ t.ipX.toInt < g.width ∧ 0 ≤ t.ipY.toInt ∧ t.ipY.toInt < g.height))) ∧
  ∀ (i : Instr) (s t : State), exec i s = .next t → t.halted = s.halted

/-- FETCH reads the one cell at the ip (R132, R301); cells stand row by row (log 2). -/
def Obligations.FetchReadsTheCellAtTheIp : Prop :=
  ∀ (s : State) (g : Grid), s.grid = some g → g.wellFormed = true → g.inGrid s.ipX s.ipY = true →
    ∃ c, g.cells[(s.ipY.toInt * g.width + s.ipX.toInt).toNat]? = some c ∧ fetch s = .next c

/-- When a STEP request stops: only without a grid or on a grid that breaks its supplier's obligations (refused, R342,
log 26), or with a running ip outside the grid (the model's own fault, log 25). No instruction is a cause. -/
def Obligations.StepStopsOnlyOutsideItsPreconditions : Prop :=
  ∀ s : State,
    (∀ f, step s = .fault f ↔ f = .fetchOutsideGrid ∧ s.halted = false ∧
      ∃ g, s.grid = some g ∧ g.wellFormed = true ∧ g.inGrid s.ipX s.ipY = false) ∧
    (∀ r, step s = .refused r ↔ s.halted = false ∧
      ((r = .noGrid ∧ s.grid = none) ∨ (r = .gridRejected ∧ ∃ g, s.grid = some g ∧ g.wellFormed = false)))

/-- Every handler completes, in every state (R134: no handler can fail; R330). -/
def Obligations.EveryHandlerCompletes : Prop :=
  ∀ (i : Instr) (s : State), ∃ t, exec i s = .next t

/-- What construction leaves (R44), with the spec's D6 (ip, dir) and D7 (pointer, call stack; log 10), and what the
RESET transaction answers (R305, R342; log 26). -/
def Obligations.ConstructionGivesTheResetValues : Prop :=
  (∀ g : Option Grid,
    (State.construct g).stack = [] ∧ (State.construct g).mem.toList = [1] ∧ (State.construct g).memPtr = 0 ∧
    (State.construct g).callStack = [] ∧ (State.construct g).ipX = 0 ∧ (State.construct g).ipY = 0 ∧
    (State.construct g).dir = .east ∧ (State.construct g).halted = false ∧ (State.construct g).grid = g ∧
    (State.construct g).output = []) ∧
  State.reset = State.construct none ∧ State.reset.mem.cells = [] ∧
  ∀ g : Grid, (g.wellFormed = true → resetTransaction g = .next (State.construct (some g))) ∧
    (g.wellFormed = false → resetTransaction g = .refused .gridRejected)

/-! ### The stacks -/

/-- `Pop()` (R23): the top and the rest, or 0 and no change. -/
def Obligations.PopYieldsTheTopOrZero : Prop :=
  ∀ s : State, (s.stack = [] → s.pop = (0, s)) ∧
    ∀ v rest, s.stack = v :: rest →
      s.pop = (v, { s with stack := rest }) ∧ s.pop.2.stack.length + 1 = s.stack.length

/-- `FramePush` and `FramePop` (R31, R32): the frame goes on top; the top and the rest, or the all-zero frame and no
change. -/
def Obligations.FramesArePushedAndPoppedOnTop : Prop :=
  ∀ s : State,
    (∀ x y d, s.framePush x y d = { s with callStack := ⟨x, y, d⟩ :: s.callStack } ∧
      (s.framePush x y d).callStack.length = s.callStack.length + 1) ∧
    (s.callStack = [] → s.framePop = (⟨0, 0, .east⟩, s)) ∧
    ∀ f rest, s.callStack = f :: rest → s.framePop = (f, { s with callStack := rest })

/-! ### The tape -/

/-- `Extend(i)` (R61): the tape becomes `max(mem_len, i + 1)` long, old cells stand, new cells hold 0; every tape read
and write and every pointer move that can raise the pointer begins with it. -/
def Obligations.ExtendAppendsZeros : Prop :=
  ∀ (m : Memory) (i : Nat), m.wf →
    (m.extend i).len = max m.len (i + 1) ∧ (m.extend i).toList = m.toList ++ List.replicate (i + 1 - m.len) 0 ∧
    (m.read i).2 = m.extend i ∧ (∀ v, (m.write i v).len = (m.extend i).len) ∧
    ∀ (s : State) (p : MemPtr), s.movePtr p = { s with memPtr := p, mem := s.mem.extend p.toNat }

/-- `MemRead(addr, 1)` (R62): the word at the address, with no effect but the extension; reading again returns the same. -/
def Obligations.ReadYieldsTheWordAndExtends : Prop :=
  ∀ (m : Memory) (a : Nat), m.wf →
    (m.extend a).toList[a]? = some (m.read a).1 ∧ (m.read a).2 = m.extend a ∧
    (∀ b, b < m.len → (m.read a).2.word b = m.word b) ∧ (a < m.len → (m.read a).2 = m) ∧
    (m.read a).2.read a = m.read a

/-- `MemWrite(addr, 1, v)` (R63): the extended tape with the word at the address replaced whole. -/
def Obligations.WriteReplacesOneWord : Prop :=
  ∀ (m : Memory) (a : Nat) (v : Word), m.wf →
    (m.write a v).toList = (m.extend a).toList.set a v ∧ (m.write a v).word a = v ∧
    ∀ b, b ≠ a → (m.write a v).word b = m.word b

/-- Tapes in canonical form with the same words are the same data (the model's representation, log 7). -/
def Obligations.TapesWithEqualWordsAreEqual : Prop :=
  ∀ m m' : Memory, m.wf → m'.wf → m.toList = m'.toList → m = m'

/-! ### Direction and jumps -/

/-- DIR sets the direction, from the low two bits of blue, and the same step advances along the new one (R150; the unit
moves are the spec's D8, log 11, the advance its D9, log 12, the wrap its D11, log 13). -/
def Obligations.DirTurnsInTheSameStep : Prop :=
  (∀ c : Cell, c.r.toNat % 16 = 1 → ∃ d, decode c = .dir d ∧ d.code.toNat = c.b.toNat % 4) ∧
  ∀ (d : Dir) (s : State), exec (.dir d) s = .next { s with dir := d } ∧
    (Executes s (.dir d) → step s = .next
      (State.haltTest { s with dir := d, ipX := s.ipX + unitX d, ipY := s.ipY + unitY d }))

/-- JMP displaces the ip by its operand along the direction; JZ pops one value and does so exactly when it is 0, an
empty stack giving 0; the operand is `256*g + b` (R93, R151, R152; unit moves and wrap are the spec's D8 and D11, log 11,
log 13). -/
def Obligations.JumpsDisplaceTheIp : Prop :=
  (∀ c : Cell, c.r.toNat % 16 = 2 → ∃ n, decode c = .jmp n ∧ n.toNat = 256 * c.g.toNat + c.b.toNat) ∧
  (∀ c : Cell, c.r.toNat % 16 = 3 → ∃ n, decode c = .jz n ∧ n.toNat = 256 * c.g.toNat + c.b.toNat) ∧
  ∀ (n : BitVec 16) (s : State),
    exec (.jmp n) s = .next
      { s with ipX := s.ipX + n.setWidth 32 * unitX s.dir, ipY := s.ipY + n.setWidth 32 * unitY s.dir } ∧
    (s.top = 0 → exec (.jz n) s = .next
      { s with stack := s.stack.tail, ipX := s.ipX + n.setWidth 32 * unitX s.dir,
               ipY := s.ipY + n.setWidth 32 * unitY s.dir }) ∧
    (s.top ≠ 0 → exec (.jz n) s = .next { s with stack := s.stack.tail })

/-- The double-movement law (R153): in its step, a jump of displacement `n`, and a JZ that is taken, moves the ip by
exactly `n + 1` cells along the current direction. -/
def Obligations.JumpsMoveOneCellMore : Prop :=
  ∀ (n : BitVec 16) (s : State),
    (Executes s (.jmp n) → step s = .next (s.move (n.toNat + 1)).haltTest) ∧
    (Executes s (.jz n) → s.top = 0 →
      step s = .next (State.move (n.toNat + 1) { s with stack := s.stack.tail }).haltTest)

/-! ### Translocate -/

/-- IJMP pops the row, then the column, and sets the ip; CALL first saves its own position and direction; RET restores a
frame, the all-zero one on an empty call stack (R170, R171, R172). Nothing else changes. -/
def Obligations.TransfersSetTheIpAndFrames : Prop :=
  ∀ s : State,
    exec .ijmp s = .next { s with stack := s.belowTwo, ipX := s.second, ipY := s.top } ∧
    exec .call s = .next
      { s with stack := s.belowTwo, callStack := ⟨s.ipX, s.ipY, s.dir⟩ :: s.callStack, ipX := s.second, ipY := s.top } ∧
    exec .ret s = .next
      { s with callStack := s.callStack.tail, ipX := s.topFrame.x, ipY := s.topFrame.y, dir := s.topFrame.d }

/-- The landing-cell law (R174): the step of a transfer ends one cell beyond its target, along the direction in force
after it (unit moves are the spec's D8, log 11; the advance along the direction the handler left, which RET changes, is
its D9, log 12; the wrap of a sum is its D11, log 13). -/
def Obligations.TransfersLandOneCellBeyond : Prop :=
  ∀ s : State,
    (Executes s .ijmp → step s = .next (State.haltTest
      { s with stack := s.belowTwo, ipX := s.second + unitX s.dir, ipY := s.top + unitY s.dir })) ∧
    (Executes s .call → step s = .next (State.haltTest
      { s with stack := s.belowTwo, callStack := ⟨s.ipX, s.ipY, s.dir⟩ :: s.callStack,
               ipX := s.second + unitX s.dir, ipY := s.top + unitY s.dir })) ∧
    (Executes s .ret → step s = .next (State.haltTest
      { s with callStack := s.callStack.tail, ipX := s.topFrame.x + unitX s.topFrame.d,
               ipY := s.topFrame.y + unitY s.topFrame.d, dir := s.topFrame.d }))

/-- The call and return round trip (R175): after a CALL step, any run that never pops the frame and then executes the RET
that does restores exactly the call's position and direction in that RET's handler, and the step ends one cell beyond, along
the restored direction; whatever ran between (unit moves are the spec's D8, log 11; the advance along the direction the
handler left is its D9, log 12; the wrap of a sum is its D11, log 13). -/
def Obligations.ReturnRestoresTheCall : Prop :=
  ∀ (s s1 t : State) (n : Nat), Executes s .call → step s = .next s1 →
    (∀ k, k ≤ n → ∃ u : State, Host.Core.run Sys2Proof.core k s1 = .next u ∧ s1.callStack.length ≤ u.callStack.length) →
    Host.Core.run Sys2Proof.core n s1 = .next t → Executes t .ret → t.callStack.length = s1.callStack.length →
    exec .ret t = .next { t with callStack := s.callStack, ipX := s.ipX, ipY := s.ipY, dir := s.dir } ∧
    step t = .next (State.haltTest
      { t with callStack := s.callStack, ipX := s.ipX + unitX s.dir, ipY := s.ipY + unitY s.dir, dir := s.dir })

/-! ### The memory-tape instructions -/

/-- STORE (R190): its encodings, and that it pops one value (0 on an empty stack) into the cell at the pointer, every
other word and register standing. -/
def Obligations.StoreWritesTheCellAtThePointer : Prop :=
  (∀ c : Cell, c.r.toNat % 16 = 5 → c.b.toNat % 8 = 0 → decode c = .store) ∧ encode .store = ⟨0x05, 0x00, 0x00⟩ ∧
  ∀ s : State, s.mem.wf →
    ∃ m, exec .store s = .next { s with stack := s.stack.tail, mem := m } ∧
      m.toList = (s.mem.extend s.memPtr.toNat).toList.set s.memPtr.toNat s.top ∧
      (s.memPtr.toNat < s.mem.len → m.len = s.mem.len) ∧
      ∀ a, a ≠ s.memPtr.toNat → m.word a = s.mem.word a

/-- LOAD (R191): its encodings, and that it pushes the whole word at the pointer, the tape's words and the pointer
standing. -/
def Obligations.LoadPushesTheCellAtThePointer : Prop :=
  (∀ c : Cell, c.r.toNat % 16 = 5 → c.b.toNat % 8 = 1 → decode c = .load) ∧ encode .load = ⟨0x05, 0x00, 0x01⟩ ∧
  ∀ s : State, s.mem.wf →
    ∃ v m, exec .load s = .next { s with stack := v :: s.stack, mem := m } ∧
      m = s.mem.extend s.memPtr.toNat ∧ m.toList[s.memPtr.toNat]? = some v ∧ (∀ a, m.word a = s.mem.word a) ∧
      (s.memPtr.toNat < s.mem.len → m = s.mem)

/-- SETP (R192): its encodings, and that it pops the pointer's new value, clamped at 0, and extends the tape with zeros
to include it. -/
def Obligations.SetpClampsAndExtends : Prop :=
  (∀ c : Cell, c.r.toNat % 16 = 5 → c.b.toNat % 8 = 2 → decode c = .setp) ∧ encode .setp = ⟨0x05, 0x00, 0x02⟩ ∧
  ∀ s : State, s.mem.wf →
    ∃ p m, exec .setp s = .next { s with stack := s.stack.tail, memPtr := p, mem := m } ∧
      (p.toNat : Int) = max 0 s.top.toInt ∧ m.toList = s.mem.toList ++ List.replicate (p.toNat + 1 - s.mem.len) 0

/-- GETP (R193) pushes the pointer as a non-negative value; DECP (R195) lowers it by one, clamped at 0; neither touches
the tape. With their encodings. -/
def Obligations.GetpAndDecpLeaveTheTape : Prop :=
  (∀ c : Cell, c.r.toNat % 16 = 5 → c.b.toNat % 8 = 3 → decode c = .getp) ∧ encode .getp = ⟨0x05, 0x00, 0x03⟩ ∧
  (∀ c : Cell, c.r.toNat % 16 = 5 → c.b.toNat % 8 = 5 → decode c = .decp) ∧ encode .decp = ⟨0x05, 0x00, 0x05⟩ ∧
  ∀ s : State,
    (∃ v, exec .getp s = .next { s with stack := v :: s.stack } ∧ v.toInt = s.memPtr.toNat) ∧
    ∃ p, exec .decp s = .next { s with memPtr := p } ∧ p.toNat = s.memPtr.toNat - 1

/-- INCP raises the pointer by one and extends the tape to include it; at `2^31 - 1` the pointer stays (R194; the
saturation is the spec's D14, log 15). -/
def Obligations.IncpRaisesThePointerAndSaturates : Prop :=
  ∀ s : State, s.mem.wf →
    ∃ p m, exec .incp s = .next { s with memPtr := p, mem := m } ∧
      p.toNat = min (s.memPtr.toNat + 1) (2 ^ 31 - 1) ∧
      m.toList = s.mem.toList ++ List.replicate (p.toNat + 1 - s.mem.len) 0

/-! ### Constants -/

/-- PUSH16 (R210): every cell of family 8 pushes `256*g + b`, never negative. -/
def Obligations.Push16PushesItsConstant : Prop :=
  (∀ c : Cell, c.r.toNat % 16 = 8 → ∃ n, decode c = .push16 n ∧ n.toNat = 256 * c.g.toNat + c.b.toNat) ∧
  (∀ g b : Byte, encode (.push16 (g ++ b)) = ⟨0x08, g, b⟩) ∧
  ∀ (n : BitVec 16) (s : State),
    ∃ v, exec (.push16 n) s = .next { s with stack := v :: s.stack } ∧ v.toInt = n.toNat

/-- PUSH2 (R211): every cell of family 9 pushes `g`, then `b`, so `b` ends on top; both are zero-extended. -/
def Obligations.Push2PushesGreenThenBlue : Prop :=
  (∀ c : Cell, c.r.toNat % 16 = 9 → decode c = .push2 c.g c.b) ∧
  (∀ g b : Byte, encode (.push2 g b) = ⟨0x09, g, b⟩) ∧
  ∀ (g b : Byte) (s : State),
    ∃ v w, exec (.push2 g b) s = .next { s with stack := w :: v :: s.stack } ∧ v.toInt = g.toNat ∧ w.toInt = b.toNat

/-! ### Stack operations -/

/-- DROP (R220): its encodings, and that it removes the top and nothing else; an empty stack stays empty. -/
def Obligations.DropDiscardsTheTop : Prop :=
  (∀ c : Cell, c.r.toNat % 16 = 10 → c.b.toNat % 4 = 0 → decode c = .drop) ∧ encode .drop = ⟨0x0A, 0x00, 0x00⟩ ∧
  ∀ s : State, exec .drop s = .next { s with stack := s.stack.tail } ∧ (s.stack = [] → exec .drop s = .next s)

/-- DUP and SWAP as their pop and push sequences give them, on short stacks too: a missing operand is 0 (R221, R222). -/
def Obligations.DupAndSwapFollowTheirSequences : Prop :=
  ∀ s : State,
    exec .dup s = .next { s with stack := s.top :: s.top :: s.stack.tail } ∧
    exec .swap s = .next { s with stack := s.second :: s.top :: s.belowTwo }

/-- DUP2 leaves, bottom to top, `x, y, x, y` for the old top `x` and the old second `y` (R223; the order is conflict C1,
the spec's D24, log 23). -/
def Obligations.Dup2LeavesThePairReversedTwice : Prop :=
  ∀ s : State, exec .dup2 s = .next { s with stack := s.second :: s.top :: s.second :: s.top :: s.belowTwo }

/-! ### The arithmetic and logical unit -/

/-- ADD, SUB and MUL deliver the low 32 bits of `x OP y`, the top of stack on the left (R240, R244 to R246; the wrap is
the spec's D15, log 16). -/
def Obligations.SumDifferenceProductWrap : Prop :=
  ∀ s : State,
    exec .add s = .next { s with stack := (s.top + s.second) :: s.belowTwo } ∧
    exec .sub s = .next { s with stack := (s.top - s.second) :: s.belowTwo } ∧
    exec .mul s = .next { s with stack := (s.top * s.second) :: s.belowTwo }

/-- DIV is the signed quotient rounded toward zero and MOD its remainder, with the sign of the dividend; a zero divisor
gives 0 (R247, R248; rounding and signs are the spec's D16 and D17, log 17; `INT_MIN / -1` wraps by its D15, log 16). -/
def Obligations.DivAndModTruncate : Prop :=
  ∀ s : State,
    exec .div s = .next { s with stack := s.top.sdiv s.second :: s.belowTwo } ∧
    exec .mod s = .next { s with stack := (if s.second = 0 then 0 else s.top.srem s.second) :: s.belowTwo }

/-- A zero divisor gives 0, for every dividend and whatever the rounding and overflow parameters; both operands are
popped (R247, R248). -/
def Obligations.ZeroDivisorGivesZero : Prop :=
  (∀ (r : DivRound) (o : Overflow) (x : Word), divWord r o x 0 = 0 ∧ modWord r x 0 = 0) ∧
  ∀ s : State, s.second = 0 →
    exec .div s = .next { s with stack := 0 :: s.belowTwo } ∧ exec .mod s = .next { s with stack := 0 :: s.belowTwo }

/-- Quotient and remainder recombine to the dividend, for both admissible roundings of `DIV_ROUND` (U8; log 17),
under the wrap of the spec's D15 (log 16). -/
def Obligations.QuotientAndRemainderRecombine : Prop :=
  ∀ (r : DivRound) (x y : Word), y ≠ 0 → divWord r .wrap x y * y + modWord r x y = x

/-- OR, AND and XOR act bit by bit on the two patterns; NOT is `-x - 1` and pops one operand only (R249 to R252). -/
def Obligations.BitwiseOperationsActPerBit : Prop :=
  ∀ s : State,
    (∃ v, exec .or s = .next { s with stack := v :: s.belowTwo } ∧
      ∀ k, v.getLsbD k = (s.top.getLsbD k || s.second.getLsbD k)) ∧
    (∃ v, exec .and s = .next { s with stack := v :: s.belowTwo } ∧
      ∀ k, v.getLsbD k = (s.top.getLsbD k && s.second.getLsbD k)) ∧
    (∃ v, exec .xor s = .next { s with stack := v :: s.belowTwo } ∧
      ∀ k, v.getLsbD k = (s.top.getLsbD k ^^ s.second.getLsbD k)) ∧
    ∃ v, exec .not s = .next { s with stack := v :: s.stack.tail } ∧ v.toInt = -s.top.toInt - 1

/-- SAR replicates the sign bit, SHR and SHL shift in zeros, all by the low five bits of the second operand (R253 to
R255; the count's reduction is the spec's D18, log 18; that SHL loses the high bits, the overflow wrap, is its D15,
log 16). -/
def Obligations.ShiftsUseTheLowFiveBits : Prop :=
  ∀ s : State,
    exec .sar s = .next { s with stack := s.top.sshiftRight (s.second.toNat % 32) :: s.belowTwo } ∧
    exec .shr s = .next { s with stack := (s.top >>> (s.second.toNat % 32)) :: s.belowTwo } ∧
    exec .shl s = .next { s with stack := (s.top <<< (s.second.toNat % 32)) :: s.belowTwo }

/-- EQ and NE compare the two operands; LAND, LOR and LNOT take any nonzero value as true; all give exactly 1 or 0
(R242, R256, R257, R262 to R264). -/
def Obligations.EqualityAndLogicGiveTruthWords : Prop :=
  ∀ s : State,
    exec .eq s = .next { s with stack := (if s.top = s.second then 1 else 0) :: s.belowTwo } ∧
    exec .ne s = .next { s with stack := (if s.top = s.second then 0 else 1) :: s.belowTwo } ∧
    exec .land s = .next { s with stack := (if s.top = 0 ∨ s.second = 0 then 0 else 1) :: s.belowTwo } ∧
    exec .lor s = .next { s with stack := (if s.top = 0 ∧ s.second = 0 then 0 else 1) :: s.belowTwo } ∧
    exec .lnot s = .next { s with stack := (if s.top = 0 then 1 else 0) :: s.stack.tail }

/-- GT, LT, GE and LE compare the top with the second as signed numbers (R258 to R261; the signedness is the spec's D29,
log 19). -/
def Obligations.OrderedComparisonsAreSigned : Prop :=
  ∀ s : State,
    exec .gt s = .next { s with stack := (if s.second.toInt < s.top.toInt then 1 else 0) :: s.belowTwo } ∧
    exec .lt s = .next { s with stack := (if s.top.toInt < s.second.toInt then 1 else 0) :: s.belowTwo } ∧
    exec .ge s = .next { s with stack := (if s.second.toInt ≤ s.top.toInt then 1 else 0) :: s.belowTwo } ∧
    exec .le s = .next { s with stack := (if s.top.toInt ≤ s.second.toInt then 1 else 0) :: s.belowTwo }

/-- The eleven reserved subcodes of family 11 pop two values and push nothing (R265 to R275; the spec's D20, log 21). -/
def Obligations.ReservedAluSubcodesPopTwo : Prop :=
  ∀ i : Instr,
    i ∈ [.rsvdA21, .rsvdA22, .rsvdA23, .rsvdA24, .rsvdA25, .rsvdA26, .rsvdA27, .rsvdA28, .rsvdA29, .rsvdA30, .rsvdA31] →
    ∀ s : State, exec i s = .next { s with stack := s.belowTwo }

/-- Every instruction of family 11 changes the data stack alone, and only its top two elements (R276). -/
def Obligations.AluChangesOnlyTheTopOfTheStack : Prop :=
  ∀ (c : Cell) (s : State), c.r.toNat % 16 = 11 →
    ∃ p, p.length ≤ 2 ∧ exec (decode c) s = .next { s with stack := p ++ s.belowTwo }

/-! ### Input and output, and the instructions without effect -/

/-- OUTC and OUTI pop one value, 0 on an empty stack, and present exactly one event that carries it whole (R290, R292;
that the port carries the full value is the spec's D23, log 24). -/
def Obligations.OutputInstructionsEmitOneEvent : Prop :=
  ∀ s : State,
    exec .outc s = .next { s with stack := s.stack.tail, output := s.output ++ [⟨.char, s.top⟩] } ∧
    exec .outi s = .next { s with stack := s.stack.tail, output := s.output ++ [⟨.int, s.top⟩] }

/-- The no-op encodings (R98, R99): the handler changes nothing, and the step only advances the ip one cell and tests for
halt. INCH is one of them by conflict C2 (the spec's D22, log 22), the unlisted subcodes of families 4, 5 and 12 by the
spec's D21 (log 21). -/
def Obligations.NoOpsOnlyAdvanceTheIp : Prop :=
  ∀ i : Instr,
    i ∈ [.nop, .rsvdT3, .rsvdM6, .rsvdM7, .rsvdF6, .rsvdF7, .inch, .rsvdIo3, .rsvdF13, .rsvdF14, .rsvdF15] →
    ∀ s : State, exec i s = .next s ∧ (Executes s i → step s = .next (s.move 1).haltTest ∧ report s = .stepTaken)

/-- The trace is append-only: a step adds at most one event, and only OUTC (a character) and OUTI (an integer) add one
(R303). -/
def Obligations.OutputGrowsByAtMostOneEvent : Prop :=
  ∀ s t : State, step s = .next t →
    t.output = s.output ∨
    (Executes s .outc ∧ t.output = s.output ++ [⟨.char, s.top⟩]) ∨
    (Executes s .outi ∧ t.output = s.output ++ [⟨.int, s.top⟩])

/-- No run depends on what was emitted: from a state with another trace, the same run appends the same events and leaves
everything else the same (R303: the trace is never read by any instruction; log 4). -/
def Obligations.TraceIsNeverRead : Prop :=
  ∀ (n : Nat) (s t : State) (o : List OutEvent), Host.Core.run Sys2Proof.core n s = .next t →
    ∃ es, t.output = s.output ++ es ∧
      Host.Core.run Sys2Proof.core n { s with output := o } = .next { t with output := o ++ es }

/-- A `(CHAR, v)` event of an ASCII code shows that character; an `(INT, v)` event shows the shortest decimal numeral of
`v`: digits without leading zero, a minus sign exactly for negatives (R294; the spec's D23, log 24). -/
def Obligations.RenderedTextIsAsciiAndShortestDecimal : Prop :=
  ∀ v : Word,
    (v.toNat ≤ 127 → renderEvent ⟨.char, v⟩ = [Char.ofNat v.toNat]) ∧
    ∃ ds : List Char, renderEvent ⟨.int, v⟩ = (if v.toInt < 0 then '-' :: ds else ds) ∧
      ds ≠ [] ∧ (∀ c ∈ ds, '0' ≤ c ∧ c ≤ '9') ∧ (1 < ds.length → ds.head? ≠ some '0') ∧
      ds.foldl (fun n c => 10 * n + (c.toNat - '0'.toNat)) 0 = v.toInt.natAbs

/-! ### Whole-machine rules -/

/-- Which instructions write which state (R39, R43, R64): a handler that changes a register, the data stack, the call
stack, the tape or the trace is one of those the spec names for it; none changes `halted` or the grid. That the unlisted
subcodes of families 4, 5 and 12 leave the data stack alone is the spec's D21 (log 21), that INCH does its D22 (log 22). -/
def Obligations.StateIsWrittenByItsInstructionsOnly : Prop :=
  ∀ (i : Instr) (s t : State), exec i s = .next t →
    t.halted = s.halted ∧ t.grid = s.grid ∧
    (t.stack ≠ s.stack → (∀ d, i ≠ .dir d) ∧ (∀ n, i ≠ .jmp n) ∧
      i ∉ [.nop, .ret, .incp, .decp, .inch, .rsvdT3, .rsvdM6, .rsvdM7, .rsvdIo3, .rsvdF6, .rsvdF7, .rsvdF13, .rsvdF14,
        .rsvdF15]) ∧
    (t.dir ≠ s.dir → (∃ d, i = .dir d) ∨ i = .ret) ∧
    (t.memPtr ≠ s.memPtr → i = .setp ∨ i = .incp ∨ i = .decp) ∧
    (t.mem ≠ s.mem → i = .store ∨ i = .load ∨ i = .setp ∨ i = .incp) ∧
    (t.callStack ≠ s.callStack → i = .call ∨ i = .ret) ∧
    (t.output ≠ s.output → i = .outc ∨ i = .outi) ∧
    (t.ipX ≠ s.ipX ∨ t.ipY ≠ s.ipY → (∃ n, i = .jmp n) ∨ (∃ n, i = .jz n) ∨ i = .ijmp ∨ i = .call ∨ i = .ret)

/-- The tape never shrinks, and the only step that changes a word of it is a STORE, at the pointer (R27, R64). -/
def Obligations.OnlyStoreChangesAWord : Prop :=
  ∀ s t : State, s.mem.wf → step s = .next t →
    s.mem.len ≤ t.mem.len ∧
    ∀ a, t.mem.word a ≠ s.mem.word a → Executes s .store ∧ a = s.memPtr.toNat ∧ t.mem.word a = s.top

/-- The invariants of R45 hold at reset, before and after a well-formed grid is handed over. -/
def Obligations.ResetSatisfiesTheInvariant : Prop :=
  Inv State.reset ∧ ∀ g : Grid, g.wellFormed = true → Inv (State.construct (some g))

/-- Every step keeps the invariants of R45, from every state that has them. -/
def Obligations.StepKeepsTheInvariant : Prop :=
  ∀ s t : State, Inv s → step s = .next t → Inv t

/-- Every state of every run on a well-formed grid satisfies the invariants, keeps the grid, and answers the next STEP
request: no program can make the engine fault (R45, R74, R330). -/
def Obligations.RunsNeverStop : Prop :=
  ∀ (g : Grid) (s : State), g.wellFormed = true → Reachable g s → Inv s ∧ s.grid = some g ∧ StepsOn s

/-- Everything that decides a later step is visible on the inspection port (R41, R304): two machines on the same grid
with equal inspections and equal traces are equal. -/
def Obligations.InspectionDeterminesTheState : Prop :=
  ∀ s t : State, s.mem.wf → t.mem.wf → inspect s = inspect t → s.grid = t.grid → s.output = t.output → s = t

/-- The 32-bit wrap of a displacement never decides whether the machine halts (R36, R154, R177): a relative jump from
within the grid, and the advance from any position, is in the grid exactly when the unwrapped position is. -/
def Obligations.WrapNeverDecidesTheHalt : Prop :=
  ∀ (g : Grid) (x y : Word) (d : Dir) (n : Nat), g.wellFormed = true →
    (n = 1 ∨ (g.inGrid x y = true ∧ n ≤ 65536)) →
    (g.inGrid (x + BitVec.ofNat 32 n * unitX d) (y + BitVec.ofNat 32 n * unitY d) = true ↔
      0 ≤ x.toInt + n * (unitX d).toInt ∧ x.toInt + n * (unitX d).toInt < g.width ∧
      0 ≤ y.toInt + n * (unitY d).toInt ∧ y.toInt + n * (unitY d).toInt < g.height)
end

