-- ==== Sys2Proof/Laws/State.lean ====
section
/-! SUPPORT. One lemma per field per update of `State`, each true by `rfl`, and the values of the parameters, so that no
later proof unfolds a record update. -/

namespace Sys2Proof.Machine

@[simp] theorem params_dirDelta : params.dirDelta = dirDelta := rfl
@[simp] theorem params_advanceDir : params.advanceDir = .postHandler := rfl
@[simp] theorem params_ptrIncAtMax : params.ptrIncAtMax = memPtrMax := rfl
@[simp] theorem params_dup2Order : params.dup2Order = .xyxy := rfl
@[simp] theorem params_readChar : params.readChar = .noop := rfl
@[simp] theorem params_overflow : params.overflow = .wrap := rfl
@[simp] theorem params_divRound : params.divRound = .truncate := rfl
@[simp] theorem params_shiftCount : params.shiftCount = shiftCount := rfl
@[simp] theorem params_signedCompare : params.signedCompare = true := rfl
@[simp] theorem params_resetIp : params.resetIp = (0, 0) := rfl
@[simp] theorem params_resetDir : params.resetDir = .east := rfl
@[simp] theorem params_resetMemPtr : params.resetMemPtr = 0 := rfl

variable (s : State)

/-! ### `State.push` -/

@[simp] theorem State.push_stack (v : Word) : (s.push v).stack = v :: s.stack := rfl
@[simp] theorem State.push_mem (v : Word) : (s.push v).mem = s.mem := rfl
@[simp] theorem State.push_memPtr (v : Word) : (s.push v).memPtr = s.memPtr := rfl
@[simp] theorem State.push_callStack (v : Word) : (s.push v).callStack = s.callStack := rfl
@[simp] theorem State.push_ipX (v : Word) : (s.push v).ipX = s.ipX := rfl
@[simp] theorem State.push_ipY (v : Word) : (s.push v).ipY = s.ipY := rfl
@[simp] theorem State.push_dir (v : Word) : (s.push v).dir = s.dir := rfl
@[simp] theorem State.push_halted (v : Word) : (s.push v).halted = s.halted := rfl
@[simp] theorem State.push_grid (v : Word) : (s.push v).grid = s.grid := rfl
@[simp] theorem State.push_output (v : Word) : (s.push v).output = s.output := rfl

/-! ### `State.framePush` -/

@[simp] theorem State.framePush_stack (x y : Word) (d : Dir) : (s.framePush x y d).stack = s.stack := rfl
@[simp] theorem State.framePush_mem (x y : Word) (d : Dir) : (s.framePush x y d).mem = s.mem := rfl
@[simp] theorem State.framePush_memPtr (x y : Word) (d : Dir) : (s.framePush x y d).memPtr = s.memPtr := rfl
@[simp] theorem State.framePush_callStack (x y : Word) (d : Dir) : (s.framePush x y d).callStack = ⟨x, y, d⟩ :: s.callStack := rfl
@[simp] theorem State.framePush_ipX (x y : Word) (d : Dir) : (s.framePush x y d).ipX = s.ipX := rfl
@[simp] theorem State.framePush_ipY (x y : Word) (d : Dir) : (s.framePush x y d).ipY = s.ipY := rfl
@[simp] theorem State.framePush_dir (x y : Word) (d : Dir) : (s.framePush x y d).dir = s.dir := rfl
@[simp] theorem State.framePush_halted (x y : Word) (d : Dir) : (s.framePush x y d).halted = s.halted := rfl
@[simp] theorem State.framePush_grid (x y : Word) (d : Dir) : (s.framePush x y d).grid = s.grid := rfl
@[simp] theorem State.framePush_output (x y : Word) (d : Dir) : (s.framePush x y d).output = s.output := rfl

/-! ### `State.memWrite` -/

@[simp] theorem State.memWrite_stack (v : Word) : (s.memWrite v).stack = s.stack := rfl
@[simp] theorem State.memWrite_mem (v : Word) : (s.memWrite v).mem = s.mem.write s.memPtr.toNat v := rfl
@[simp] theorem State.memWrite_memPtr (v : Word) : (s.memWrite v).memPtr = s.memPtr := rfl
@[simp] theorem State.memWrite_callStack (v : Word) : (s.memWrite v).callStack = s.callStack := rfl
@[simp] theorem State.memWrite_ipX (v : Word) : (s.memWrite v).ipX = s.ipX := rfl
@[simp] theorem State.memWrite_ipY (v : Word) : (s.memWrite v).ipY = s.ipY := rfl
@[simp] theorem State.memWrite_dir (v : Word) : (s.memWrite v).dir = s.dir := rfl
@[simp] theorem State.memWrite_halted (v : Word) : (s.memWrite v).halted = s.halted := rfl
@[simp] theorem State.memWrite_grid (v : Word) : (s.memWrite v).grid = s.grid := rfl
@[simp] theorem State.memWrite_output (v : Word) : (s.memWrite v).output = s.output := rfl

/-! ### `State.movePtr` -/

@[simp] theorem State.movePtr_stack (p : MemPtr) : (s.movePtr p).stack = s.stack := rfl
@[simp] theorem State.movePtr_mem (p : MemPtr) : (s.movePtr p).mem = s.mem.extend p.toNat := rfl
@[simp] theorem State.movePtr_memPtr (p : MemPtr) : (s.movePtr p).memPtr = p := rfl
@[simp] theorem State.movePtr_callStack (p : MemPtr) : (s.movePtr p).callStack = s.callStack := rfl
@[simp] theorem State.movePtr_ipX (p : MemPtr) : (s.movePtr p).ipX = s.ipX := rfl
@[simp] theorem State.movePtr_ipY (p : MemPtr) : (s.movePtr p).ipY = s.ipY := rfl
@[simp] theorem State.movePtr_dir (p : MemPtr) : (s.movePtr p).dir = s.dir := rfl
@[simp] theorem State.movePtr_halted (p : MemPtr) : (s.movePtr p).halted = s.halted := rfl
@[simp] theorem State.movePtr_grid (p : MemPtr) : (s.movePtr p).grid = s.grid := rfl
@[simp] theorem State.movePtr_output (p : MemPtr) : (s.movePtr p).output = s.output := rfl

/-! ### `State.setPtr` -/

@[simp] theorem State.setPtr_stack (p : MemPtr) : (s.setPtr p).stack = s.stack := rfl
@[simp] theorem State.setPtr_mem (p : MemPtr) : (s.setPtr p).mem = s.mem := rfl
@[simp] theorem State.setPtr_memPtr (p : MemPtr) : (s.setPtr p).memPtr = p := rfl
@[simp] theorem State.setPtr_callStack (p : MemPtr) : (s.setPtr p).callStack = s.callStack := rfl
@[simp] theorem State.setPtr_ipX (p : MemPtr) : (s.setPtr p).ipX = s.ipX := rfl
@[simp] theorem State.setPtr_ipY (p : MemPtr) : (s.setPtr p).ipY = s.ipY := rfl
@[simp] theorem State.setPtr_dir (p : MemPtr) : (s.setPtr p).dir = s.dir := rfl
@[simp] theorem State.setPtr_halted (p : MemPtr) : (s.setPtr p).halted = s.halted := rfl
@[simp] theorem State.setPtr_grid (p : MemPtr) : (s.setPtr p).grid = s.grid := rfl
@[simp] theorem State.setPtr_output (p : MemPtr) : (s.setPtr p).output = s.output := rfl

/-! ### `State.setIp` -/

@[simp] theorem State.setIp_stack (x y : Word) : (s.setIp x y).stack = s.stack := rfl
@[simp] theorem State.setIp_mem (x y : Word) : (s.setIp x y).mem = s.mem := rfl
@[simp] theorem State.setIp_memPtr (x y : Word) : (s.setIp x y).memPtr = s.memPtr := rfl
@[simp] theorem State.setIp_callStack (x y : Word) : (s.setIp x y).callStack = s.callStack := rfl
@[simp] theorem State.setIp_ipX (x y : Word) : (s.setIp x y).ipX = x := rfl
@[simp] theorem State.setIp_ipY (x y : Word) : (s.setIp x y).ipY = y := rfl
@[simp] theorem State.setIp_dir (x y : Word) : (s.setIp x y).dir = s.dir := rfl
@[simp] theorem State.setIp_halted (x y : Word) : (s.setIp x y).halted = s.halted := rfl
@[simp] theorem State.setIp_grid (x y : Word) : (s.setIp x y).grid = s.grid := rfl
@[simp] theorem State.setIp_output (x y : Word) : (s.setIp x y).output = s.output := rfl

/-! ### `State.setDir` -/

@[simp] theorem State.setDir_stack (d : Dir) : (s.setDir d).stack = s.stack := rfl
@[simp] theorem State.setDir_mem (d : Dir) : (s.setDir d).mem = s.mem := rfl
@[simp] theorem State.setDir_memPtr (d : Dir) : (s.setDir d).memPtr = s.memPtr := rfl
@[simp] theorem State.setDir_callStack (d : Dir) : (s.setDir d).callStack = s.callStack := rfl
@[simp] theorem State.setDir_ipX (d : Dir) : (s.setDir d).ipX = s.ipX := rfl
@[simp] theorem State.setDir_ipY (d : Dir) : (s.setDir d).ipY = s.ipY := rfl
@[simp] theorem State.setDir_dir (d : Dir) : (s.setDir d).dir = d := rfl
@[simp] theorem State.setDir_halted (d : Dir) : (s.setDir d).halted = s.halted := rfl
@[simp] theorem State.setDir_grid (d : Dir) : (s.setDir d).grid = s.grid := rfl
@[simp] theorem State.setDir_output (d : Dir) : (s.setDir d).output = s.output := rfl

/-! ### `State.moveAlong` -/

@[simp] theorem State.moveAlong_stack (d : Dir) (n : Nat) : (s.moveAlong d n).stack = s.stack := rfl
@[simp] theorem State.moveAlong_mem (d : Dir) (n : Nat) : (s.moveAlong d n).mem = s.mem := rfl
@[simp] theorem State.moveAlong_memPtr (d : Dir) (n : Nat) : (s.moveAlong d n).memPtr = s.memPtr := rfl
@[simp] theorem State.moveAlong_callStack (d : Dir) (n : Nat) : (s.moveAlong d n).callStack = s.callStack := rfl
@[simp] theorem State.moveAlong_ipX (d : Dir) (n : Nat) : (s.moveAlong d n).ipX = s32 (s.ipX.toInt + n * (params.dirDelta d).1) := rfl
@[simp] theorem State.moveAlong_ipY (d : Dir) (n : Nat) : (s.moveAlong d n).ipY = s32 (s.ipY.toInt + n * (params.dirDelta d).2) := rfl
@[simp] theorem State.moveAlong_dir (d : Dir) (n : Nat) : (s.moveAlong d n).dir = s.dir := rfl
@[simp] theorem State.moveAlong_halted (d : Dir) (n : Nat) : (s.moveAlong d n).halted = s.halted := rfl
@[simp] theorem State.moveAlong_grid (d : Dir) (n : Nat) : (s.moveAlong d n).grid = s.grid := rfl
@[simp] theorem State.moveAlong_output (d : Dir) (n : Nat) : (s.moveAlong d n).output = s.output := rfl

/-! ### `State.emit` -/

@[simp] theorem State.emit_stack (k : EventKind) (v : Word) : (s.emit k v).stack = s.stack := rfl
@[simp] theorem State.emit_mem (k : EventKind) (v : Word) : (s.emit k v).mem = s.mem := rfl
@[simp] theorem State.emit_memPtr (k : EventKind) (v : Word) : (s.emit k v).memPtr = s.memPtr := rfl
@[simp] theorem State.emit_callStack (k : EventKind) (v : Word) : (s.emit k v).callStack = s.callStack := rfl
@[simp] theorem State.emit_ipX (k : EventKind) (v : Word) : (s.emit k v).ipX = s.ipX := rfl
@[simp] theorem State.emit_ipY (k : EventKind) (v : Word) : (s.emit k v).ipY = s.ipY := rfl
@[simp] theorem State.emit_dir (k : EventKind) (v : Word) : (s.emit k v).dir = s.dir := rfl
@[simp] theorem State.emit_halted (k : EventKind) (v : Word) : (s.emit k v).halted = s.halted := rfl
@[simp] theorem State.emit_grid (k : EventKind) (v : Word) : (s.emit k v).grid = s.grid := rfl
@[simp] theorem State.emit_output (k : EventKind) (v : Word) : (s.emit k v).output = s.output ++ [⟨k, v⟩] := rfl

end Sys2Proof.Machine
end

