-- ==== Sys2Proof/Laws/Memory.lean ====
section
/-! SUPPORT. The tape's laws: what each operation does to a word and to the length, and that every operation keeps the
canonical form. -/

namespace Sys2Proof.Machine

/-! ### Extend -/

@[simp] theorem Memory.extend_len (m : Memory) (i : Nat) : (m.extend i).len = max m.len (i + 1) := rfl

@[simp] theorem Memory.extend_cells (m : Memory) (i : Nat) : (m.extend i).cells = m.cells := rfl

@[simp] theorem Memory.extend_word (m : Memory) (i a : Nat) : (m.extend i).word a = m.word a := rfl

theorem Memory.extend_of_lt {m : Memory} {i : Nat} (h : i < m.len) : m.extend i = m := by
  cases m with
  | mk len cells => simp only [Memory.extend, Memory.mk.injEq, and_true]; exact Nat.max_eq_left h

theorem Memory.extend_wf {m : Memory} (i : Nat) (h : m.wf) : (m.extend i).wf :=
  ⟨le_trans h.1 (Nat.le_max_left _ _), fun c hc => ⟨lt_of_lt_of_le (h.2.1 c hc).1 (Nat.le_max_left _ _), (h.2.1 c hc).2⟩,
    h.2.2⟩

/-! ### Find and put -/

theorem findCell_none {cells : List (Nat × Word)} {a : Nat} (h : ∀ c ∈ cells, a ≠ c.1) : findCell cells a = none := by
  induction cells with
  | nil => rfl
  | cons c rest ih =>
    obtain ⟨b, w⟩ := c
    have hb : a ≠ b := h (b, w) (by simp)
    simp only [findCell, if_neg hb]
    exact ih (fun c hc => h c (by simp [hc]))

/-- A listed word stands at or beyond no index that the list's cells all exceed: nothing is listed past the length. -/
theorem Memory.word_of_len_le {m : Memory} {a : Nat} (h : m.wf) (ha : m.len ≤ a) : m.word a = 0 := by
  have hn : findCell m.cells a = none := findCell_none (fun c hc => by have := (h.2.1 c hc).1; omega)
  have h1 := h.1
  have h0 : a ≠ 0 := by omega
  simp [Memory.word, hn, Memory.unlisted, h0]

theorem mem_putCell {a : Nat} {v : Word} {cells : List (Nat × Word)} {c : Nat × Word} (h : c ∈ putCell a v cells) :
    (c = (a, v) ∧ v ≠ Memory.unlisted a) ∨ c ∈ cells := by
  induction cells with
  | nil =>
    simp only [putCell] at h
    split at h <;> simp_all
  | cons d rest ih =>
    obtain ⟨b, w⟩ := d
    simp only [putCell] at h
    split at h
    · split at h <;> simp_all
    · split at h
      · split at h
        · exact .inr (by simp [h])
        · rcases List.mem_cons.mp h with h | h
          · exact .inl ⟨h, by assumption⟩
          · exact .inr (by simp [h])
      · rcases List.mem_cons.mp h with h | h
        · exact .inr (by simp [h])
        · rcases ih h with h | h
          · exact .inl h
          · exact .inr (by simp [h])

theorem putCell_pairwise {a : Nat} {v : Word} {cells : List (Nat × Word)}
    (h : cells.Pairwise (fun c d => c.1 < d.1)) : (putCell a v cells).Pairwise (fun c d => c.1 < d.1) := by
  induction cells with
  | nil =>
    simp only [putCell]
    split <;> simp
  | cons d rest ih =>
    obtain ⟨b, w⟩ := d
    obtain ⟨hd, hr⟩ := List.pairwise_cons.mp h
    simp only [putCell]
    split
    · rename_i hab
      split
      · exact h
      · exact List.pairwise_cons.mpr ⟨fun c hc => by
          rcases List.mem_cons.mp hc with rfl | hc
          · exact hab
          · exact lt_trans hab (hd c hc), h⟩
    · rename_i hab
      split
      · rename_i hab'
        subst hab'
        split
        · exact hr
        · exact List.pairwise_cons.mpr ⟨hd, hr⟩
      · refine List.pairwise_cons.mpr ⟨fun c hc => ?_, ih hr⟩
        rcases mem_putCell hc with ⟨rfl, _⟩ | hc
        · simp only; omega
        · exact hd c hc

/-- What putting a word does to every index: the put one reads as the word, every other as before. -/
theorem findCell_putCell {a : Nat} {v : Word} {cells : List (Nat × Word)} (h : cells.Pairwise (fun c d => c.1 < d.1))
    (x : Nat) : (findCell (putCell a v cells) x).getD (Memory.unlisted x) =
      if x = a then v else (findCell cells x).getD (Memory.unlisted x) := by
  induction cells with
  | nil =>
    simp only [putCell]
    split
    · rename_i hv; by_cases hx : x = a <;> simp [findCell, hx, hv]
    · by_cases hx : x = a <;> simp [findCell, hx]
  | cons d rest ih =>
    obtain ⟨b, w⟩ := d
    obtain ⟨hd, hr⟩ := List.pairwise_cons.mp h
    have later : ∀ y, y ≤ b → findCell rest y = none := fun y hy =>
      findCell_none (fun c hc => by have := hd c hc; simp only at this; omega)
    simp only [putCell]
    split
    · rename_i hab
      have ha : findCell ((b, w) :: rest) a = none := by
        simp [findCell, Nat.ne_of_lt hab, later a hab.le]
      split
      · rename_i hv
        by_cases hx : x = a
        · subst hx; simp [ha, hv]
        · simp [hx]
      · by_cases hx : x = a <;> simp [findCell, hx]
    · split
      · rename_i hab
        subst hab
        split
        · rename_i hv
          by_cases hx : x = a
          · subst hx; simp [later x le_rfl, hv]
          · simp [findCell, hx]
        · by_cases hx : x = a <;> simp [findCell, hx]
      · rename_i hlt hne
        by_cases hxb : x = b
        · subst hxb
          have : x ≠ a := fun e => hne e.symm
          simp [findCell, this]
        · simp only [findCell, if_neg hxb]
          exact ih hr

/-! ### Write -/

@[simp] theorem Memory.write_len (m : Memory) (a : Nat) (v : Word) : (m.write a v).len = max m.len (a + 1) := rfl

theorem Memory.write_word {m : Memory} (h : m.wf) (a : Nat) (v : Word) (x : Nat) :
    (m.write a v).word x = if x = a then v else m.word x := findCell_putCell h.2.2 x

theorem Memory.write_wf {m : Memory} (a : Nat) (v : Word) (h : m.wf) : (m.write a v).wf := by
  have he := Memory.extend_wf a h
  refine ⟨he.1, fun c hc => ?_, putCell_pairwise he.2.2⟩
  rcases mem_putCell hc with ⟨rfl, hv⟩ | hc
  · exact ⟨lt_of_lt_of_le (Nat.lt_succ_self a) (Nat.le_max_right _ _), hv⟩
  · exact he.2.1 c hc

/-! ### Read -/

/-- Everything a read can do: the word as it stands, and the extension. -/
theorem Memory.read_eq (m : Memory) (a : Nat) : m.read a = (m.word a, m.extend a) := rfl

theorem Memory.read_wf {m : Memory} (a : Nat) (h : m.wf) : (m.read a).2.wf := Memory.extend_wf a h

/-! ### The tape as a sequence -/

@[simp] theorem Memory.toList_length (m : Memory) : m.toList.length = m.len := by simp [Memory.toList]

theorem Memory.toList_get? (m : Memory) (a : Nat) : m.toList[a]? = if a < m.len then some (m.word a) else none := by
  by_cases h : a < m.len <;> simp [Memory.toList, h]

theorem reset_mem_wf : State.reset.mem.wf := by decide

end Sys2Proof.Machine
end

