-- ==== Sys2Proof/Laws/Ops.lean ====
section
/-! SUPPORT. One lemma per shared operation that says once everything it can do, in the terms of Sys2Proof/Safety.lean. -/

namespace Sys2Proof.Machine

/-! ### Pops -/

theorem State.pop_eq (s : State) : s.pop = (s.top, { s with stack := s.stack.tail }) := by
  obtain ⟨stack, mem, memPtr, callStack, ipX, ipY, dir, halted, grid, output⟩ := s
  cases stack <;> rfl

@[simp] theorem State.pop_fst (s : State) : s.pop.1 = s.top := by rw [State.pop_eq]

@[simp] theorem State.pop_snd (s : State) : s.pop.2 = { s with stack := s.stack.tail } := by rw [State.pop_eq]

theorem State.pop_twice (s : State) : s.pop.2.pop = (s.second, { s with stack := s.belowTwo }) := by
  rw [State.pop_snd, State.pop_eq]
  simp [State.second, State.top, State.belowTwo]

theorem State.framePop_eq (s : State) : s.framePop = (s.topFrame, { s with callStack := s.callStack.tail }) := by
  obtain ⟨stack, mem, memPtr, callStack, ipX, ipY, dir, halted, grid, output⟩ := s
  cases callStack <;> rfl

/-! ### Templates -/

/-- Everything a binary operation does (R240). -/
theorem binary_eq (op : Word → Word → Word) (s : State) :
    binary op s = .next { s with stack := op s.top s.second :: s.belowTwo } := by
  simp only [binary, State.pop_eq, State.push]
  simp [State.top, State.second, State.belowTwo]

/-- Everything a unary operation does (R241). -/
theorem unary_eq (op : Word → Word) (s : State) :
    unary op s = .next { s with stack := op s.top :: s.stack.tail } := by
  simp only [unary, State.pop_eq, State.push]

/-- Everything a reserved subcode of family 11 does (R265). -/
theorem popTwo_eq (s : State) : popTwo s = .next { s with stack := s.belowTwo } := by
  simp only [popTwo, State.pop_eq]
  simp [State.belowTwo]

/-- Everything an indirect jump does (R170). -/
theorem indirectJump_eq (s : State) :
    indirectJump s = { s with stack := s.belowTwo, ipX := s.second, ipY := s.top } := by
  simp only [indirectJump, State.pop_eq, State.setIp]
  simp [State.top, State.second, State.belowTwo]

/-- Everything an emitting instruction does (R290, R292). -/
theorem popEmit_eq (k : EventKind) (s : State) :
    popEmit k s = .next { s with stack := s.stack.tail, output := s.output ++ [⟨k, s.top⟩] } := by
  simp only [popEmit, State.pop_eq, State.emit]

/-! ### The ip -/

theorem s32_toInt_add (x : Word) (n : Nat) (d : Int) :
    s32 (x.toInt + n * d) = x + BitVec.ofNat 32 n * BitVec.ofInt 32 d := by
  simp [s32, BitVec.ofInt_add, BitVec.ofInt_mul, BitVec.ofInt_toInt, BitVec.ofInt_natCast]

/-- Everything a displacement does (R36), in words. -/
theorem State.moveAlong_eq (d : Dir) (n : Nat) (s : State) :
    s.moveAlong d n = { s with ipX := s.ipX + BitVec.ofNat 32 n * unitX d, ipY := s.ipY + BitVec.ofNat 32 n * unitY d } := by
  simp only [State.moveAlong, State.setIp, s32_toInt_add]
  cases d <;> rfl

theorem State.move_eq (n : Nat) (s : State) :
    s.move n = { s with ipX := s.ipX + BitVec.ofNat 32 n * unitX s.dir, ipY := s.ipY + BitVec.ofNat 32 n * unitY s.dir } :=
  State.moveAlong_eq s.dir n s

/-! ### The halt test -/

/-- Everything the halt test does (R136). -/
theorem State.haltTest_eq (s : State) : s.haltTest = { s with halted := s.halted || !s.ipInGrid } := by
  unfold State.haltTest
  cases h : s.ipInGrid <;> simp

/-- Everything the end of a step does (R135, R136). -/
theorem finishStep_eq (d : Dir) (s : State) : finishStep d s = (s.move 1).haltTest := rfl

/-! ### Fetch and step -/

theorem Grid.cellAt_of_inGrid {g : Grid} {x y : Word} (hg : g.wellFormed = true) (h : g.inGrid x y = true) :
    ∃ c, g.cellAt x y = some c ∧ g.cells[g.index x y]? = some c := by
  simp only [Grid.wellFormed, Grid.cellsOk, Grid.inGrid, Bool.and_eq_true, decide_eq_true_eq] at hg h
  obtain ⟨⟨_, _⟩, hlen⟩ := hg
  obtain ⟨⟨hx0, hx⟩, hy0, hy⟩ := h
  have ex : x.toInt = x.toNat := BitVec.toInt_eq_toNat_of_msb (by simpa [BitVec.msb_eq_toInt] using hx0)
  have ey : y.toInt = y.toNat := BitVec.toInt_eq_toNat_of_msb (by simpa [BitVec.msb_eq_toInt] using hy0)
  have hi : g.index x y < g.cells.length := by
    rw [hlen, Grid.index]
    have hx' : x.toNat < g.width := by omega
    have hy' : y.toNat + 1 ≤ g.height := by omega
    calc y.toNat * g.width + x.toNat < y.toNat * g.width + g.width := by omega
      _ = (y.toNat + 1) * g.width := by ring
      _ ≤ g.height * g.width := Nat.mul_le_mul_right _ hy'
      _ = g.width * g.height := Nat.mul_comm _ _
  refine ⟨g.cells[g.index x y], ?_, List.getElem?_eq_getElem hi⟩
  simp [Grid.cellAt, Grid.inGrid, hx0, hx, hy0, hy, List.getElem?_eq_getElem hi]

/-- Everything a fetch can answer (R132, R342). -/
theorem fetch_cases (s : State) :
    (s.grid = none ∧ fetch s = .refused .noGrid) ∨
    (∃ g, s.grid = some g ∧ g.wellFormed = false ∧ fetch s = .refused .gridRejected) ∨
    (∃ g, s.grid = some g ∧ g.wellFormed = true ∧ g.inGrid s.ipX s.ipY = false ∧ fetch s = .fault .fetchOutsideGrid) ∨
    (∃ g c, s.grid = some g ∧ g.wellFormed = true ∧ g.inGrid s.ipX s.ipY = true ∧
      g.cells[g.index s.ipX s.ipY]? = some c ∧ fetch s = .next c) := by
  cases hs : s.grid with
  | none => exact .inl ⟨rfl, by simp [fetch, hs]⟩
  | some g =>
    cases hw : g.wellFormed with
    | false => exact .inr (.inl ⟨g, rfl, hw, by simp [fetch, hs, hw]⟩)
    | true =>
      cases hin : g.inGrid s.ipX s.ipY with
      | false => exact .inr (.inr (.inl ⟨g, rfl, hw, hin, by simp [fetch, hs, hw, Grid.cellAt, hin]⟩))
      | true =>
        obtain ⟨c, hc, hc'⟩ := Grid.cellAt_of_inGrid hw hin
        exact .inr (.inr (.inr ⟨g, c, rfl, hw, hin, hc', by simp [fetch, hs, hw, hc]⟩))

/-- Everything a step can do when it answers a next state (R130, R131). -/
theorem step_cases {s t : State} (h : step s = .next t) :
    (s.halted = true ∧ t = s) ∨
    (s.halted = false ∧ ∃ c u, fetch s = .next c ∧ exec (decode c) s = .next u ∧ t = (u.move 1).haltTest) := by
  cases hh : s.halted with
  | true => exact .inl ⟨rfl, by simpa [step, hh] using h.symm⟩
  | false =>
    refine .inr ⟨rfl, ?_⟩
    simp only [step, hh, Bool.false_eq_true, if_false] at h
    cases hf : fetch s with
    | fault f => simp [hf] at h
    | refused r => simp [hf] at h
    | next c =>
      simp only [hf] at h
      cases he : exec (decode c) s with
      | fault f => simp [he] at h
      | refused r => simp [he] at h
      | next u =>
        simp only [he, finishStep_eq] at h
        injection h with h
        exact ⟨c, u, rfl, he, h.symm⟩

end Sys2Proof.Machine
end

