-- ==== Sys2Proof/Laws/Decode.lean ====
section
/-! SUPPORT. Small lemmas about cells as words, about masks channel by channel, and about runs step by step. -/

namespace Sys2Proof

/-! ### Cells as words -/

/-- A mask acts on the packed form channel by channel. -/
theorem Cell.word24_and (c : Cell) (mr mg mb : Byte) :
    c.word24 &&& Cell.word24 ⟨mr, mg, mb⟩ = Cell.word24 ⟨c.r &&& mr, c.g &&& mg, c.b &&& mb⟩ := by
  simp only [Cell.word24]
  rw [BitVec.and_append, BitVec.and_append]

/-- The packed form determines the cell (R91). -/
theorem Cell.word24_inj {c d : Cell} (h : c.word24 = d.word24) : c = d := by
  obtain ⟨r, g, b⟩ := c
  obtain ⟨r', g', b'⟩ := d
  have key : ∀ k : Nat, (r ++ g ++ b).getLsbD k = (r' ++ g' ++ b').getLsbD k :=
    fun k => congrArg (fun (w : BitVec 24) => w.getLsbD k) h
  simp only [BitVec.getLsbD_append] at key
  have hb : b = b' := BitVec.eq_of_getLsbD_eq fun k hk => by simpa [hk] using key k
  have hg : g = g' := BitVec.eq_of_getLsbD_eq fun k hk => by simpa [hk] using key (k + 8)
  have hr : r = r' := BitVec.eq_of_getLsbD_eq fun k hk => by
    simpa [show ¬k + 16 < 8 by omega, show k + 16 - 8 = k + 8 by omega, hk] using key (k + 16)
  subst hb hg hr
  rfl

/-- Packing the unpacked word gives it back. -/
theorem Cell.word24_ofWord24 (w : BitVec 24) : (Cell.ofWord24 w).word24 = w := by
  refine BitVec.eq_of_getLsbD_eq fun k hk => ?_
  have e : (Cell.ofWord24 w).word24.getLsbD k =
      (w.extractLsb' 16 8 ++ w.extractLsb' 8 8 ++ w.extractLsb' 0 8 : BitVec (8 + 8 + 8)).getLsbD k := rfl
  rw [e]
  simp only [BitVec.getLsbD_append, BitVec.getLsbD_extractLsb']
  split
  · simp [*]
  · split
    · have e1 : 8 + (k - 8) = k := by omega
      simp [*]
    · have e1 : 16 + (k - 8 - 8) = k := by omega
      have e2 : k - 8 - 8 < 8 := by omega
      simp [*]

/-- Two cells agree under a mask exactly when each channel does. -/
theorem Cell.and_mask_eq_iff (c d : Cell) (m : BitVec 24) : c.word24 &&& m = d.word24 &&& m ↔
    c.r &&& (Cell.ofWord24 m).r = d.r &&& (Cell.ofWord24 m).r ∧
    c.g &&& (Cell.ofWord24 m).g = d.g &&& (Cell.ofWord24 m).g ∧
    c.b &&& (Cell.ofWord24 m).b = d.b &&& (Cell.ofWord24 m).b := by
  have h : ∀ a : Cell, a.word24 &&& m =
      Cell.word24 ⟨a.r &&& (Cell.ofWord24 m).r, a.g &&& (Cell.ofWord24 m).g, a.b &&& (Cell.ofWord24 m).b⟩ := fun a => by
    conv_lhs => rw [← Cell.word24_ofWord24 m]
    exact Cell.word24_and a _ _ _
  rw [h, h]
  exact ⟨fun e => by simpa using Cell.word24_inj e, fun ⟨h1, h2, h3⟩ => by rw [h1, h2, h3]⟩

/-- The masks of the opcode table as remainders (R92, R93). -/
theorem byte_and_masks (x : Byte) :
    x &&& 0x0F = BitVec.ofNat 8 (x.toNat % 16) ∧ x &&& 3 = BitVec.ofNat 8 (x.toNat % 4) ∧
    x &&& 7 = BitVec.ofNat 8 (x.toNat % 8) ∧ x &&& 31 = BitVec.ofNat 8 (x.toNat % 32) ∧ x &&& 255 = x ∧ x &&& 0 = 0 := by
  revert x
  decide

/-- An immediate is its two bytes, green uppermost (R93). -/
theorem imm16_bytes (n : BitVec 16) : n.extractLsb' 8 8 ++ n.extractLsb' 0 8 = n := by
  refine BitVec.eq_of_getLsbD_eq fun k hk => ?_
  have e : (n.extractLsb' 8 8 ++ n.extractLsb' 0 8 : BitVec (8 + 8)).getLsbD k = n.getLsbD k := by
    simp only [BitVec.getLsbD_append, BitVec.getLsbD_extractLsb']
    split
    · simp [*]
    · have e1 : 8 + (k - 8) = k := by omega
      have e2 : k - 8 < 8 := by omega
      simp [*]
  exact e

theorem Cell.family_lt (c : Cell) : c.family < 16 := Nat.mod_lt _ (by decide)

end Sys2Proof

namespace Sys2Proof.Machine

/-! ### Displacements -/

/-- A displacement of at most 65536 cells is a non-negative word (R154). -/
theorem displacement_toInt {n : Nat} (hn : n ≤ 65536) : (BitVec.ofNat 32 n).toInt = n := by
  rw [BitVec.toInt_eq_toNat_cond, BitVec.toNat_ofNat]
  omega

theorem State.move_move (s : State) (n m : Nat) : (s.move n).move m = s.move (n + m) := by
  simp only [State.move_eq, BitVec.ofNat_add, BitVec.add_mul, BitVec.add_assoc]

/-! ### Runs -/

/-- A run by its first step. -/
theorem run_succ_first (n : Nat) (s : State) : Host.Core.run Sys2Proof.core (n + 1) s =
    match step s with
    | .next t => Host.Core.run Sys2Proof.core n t
    | .fault f => .fault f
    | .refused r => .refused r := by
  have hs : Sys2Proof.core.step s = step s := rfl
  simp only [Host.Core.run, hs]
  cases step s <;> rfl

/-- A run by its last step. -/
theorem run_succ_last (n : Nat) (s : State) : Host.Core.run Sys2Proof.core (n + 1) s =
    match Host.Core.run Sys2Proof.core n s with
    | .next t => step t
    | .fault f => .fault f
    | .refused r => .refused r := by
  induction n generalizing s with
  | zero =>
    rw [run_succ_first]
    simp only [Host.Core.run]
    cases step s <;> rfl
  | succ n ih =>
    rw [run_succ_first, run_succ_first]
    cases step s with
    | next t => exact ih t
    | fault f => rfl
    | refused r => rfl

end Sys2Proof.Machine
end

