-- ==== Sys2Proof/Laws/PerInstr.lean ====
section
/-! SUPPORT. Per-instruction laws. `EncodesItsRow`: the canonical encoding of an instruction carries, in the bits that
select it, the `match` of its row in spec/opcode_table.json. -/

namespace Sys2Proof.Laws.EncodesItsRow

/-- The selecting bits of the encoding are the row's. -/
def Statement (i : Instr) : Prop := selectMatch i = tableMatch i

/-- The family bits of a cell's word are the low half of red (R92). -/
theorem word24_and_family (c : Cell) : c.word24 &&& 0x0F0000#24 = c.r.setWidth 24 <<< 16 &&& 0x0F0000#24 := by
  obtain ⟨r, g, b⟩ := c
  apply BitVec.eq_of_getLsbD_eq
  intro k hk
  simp only [Cell.word24, BitVec.getLsbD_and, BitVec.getLsbD_append, BitVec.getLsbD_shiftLeft, BitVec.getLsbD_setWidth]
  rcases Nat.lt_or_ge k 16 with h | h
  · have : (0x0F0000#24).getLsbD k = false := by revert hk h; revert k; decide
    simp [this]
  · have h1 : ¬ k < 8 := by omega
    have h2 : ¬ k - 8 < 8 := by omega
    have h3 : k - 8 - 8 = k - 16 := by omega
    have h4 : k - 16 < 24 := by omega
    simp [h1, h2, h3, h4, hk, Nat.not_lt.mpr h]

/-- A row selected by its family alone (R95). -/
theorem selectMatch_of_family (i : Instr) (f : Byte) (hm : selectMask i = 0x0F0000#24) (hr : (encode i).r = f)
    (hf : f.setWidth 24 <<< 16 &&& 0x0F0000#24 = tableMatch i) : Statement i := by
  rw [Statement, selectMatch, hm, word24_and_family, hr, hf]

theorem nop : Statement .nop := rfl

theorem dir (d : Dir) : Statement (.dir d) := by cases d <;> rfl

theorem jmp (n : BitVec 16) : Statement (.jmp n) := selectMatch_of_family _ 2 rfl rfl (by show BitVec.setWidth 24 2#8 <<< 16 &&& 0x0F0000#24 = 0x020000#24; decide)

theorem jz (n : BitVec 16) : Statement (.jz n) := selectMatch_of_family _ 3 rfl rfl (by show BitVec.setWidth 24 3#8 <<< 16 &&& 0x0F0000#24 = 0x030000#24; decide)

theorem ijmp : Statement .ijmp := rfl

theorem call : Statement .call := rfl

theorem ret : Statement .ret := rfl

theorem rsvdT3 : Statement .rsvdT3 := rfl

theorem store : Statement .store := rfl

theorem load : Statement .load := rfl

theorem setp : Statement .setp := rfl

theorem getp : Statement .getp := rfl

theorem incp : Statement .incp := rfl

theorem decp : Statement .decp := rfl

theorem rsvdM6 : Statement .rsvdM6 := rfl

theorem rsvdM7 : Statement .rsvdM7 := rfl

theorem rsvdF6 : Statement .rsvdF6 := rfl

theorem rsvdF7 : Statement .rsvdF7 := rfl

theorem push16 (n : BitVec 16) : Statement (.push16 n) := selectMatch_of_family _ 8 rfl rfl (by show BitVec.setWidth 24 8#8 <<< 16 &&& 0x0F0000#24 = 0x080000#24; decide)

theorem push2 (g b : Byte) : Statement (.push2 g b) := selectMatch_of_family _ 9 rfl rfl (by show BitVec.setWidth 24 9#8 <<< 16 &&& 0x0F0000#24 = 0x090000#24; decide)

theorem drop : Statement .drop := rfl

theorem dup : Statement .dup := rfl

theorem swap : Statement .swap := rfl

theorem dup2 : Statement .dup2 := rfl

theorem add : Statement .add := rfl

theorem sub : Statement .sub := rfl

theorem mul : Statement .mul := rfl

theorem div : Statement .div := rfl

theorem mod : Statement .mod := rfl

theorem or : Statement .or := rfl

theorem and : Statement .and := rfl

theorem xor : Statement .xor := rfl

theorem not : Statement .not := rfl

theorem sar : Statement .sar := rfl

theorem shr : Statement .shr := rfl

theorem shl : Statement .shl := rfl

theorem eq : Statement .eq := rfl

theorem ne : Statement .ne := rfl

theorem gt : Statement .gt := rfl

theorem lt : Statement .lt := rfl

theorem ge : Statement .ge := rfl

theorem le : Statement .le := rfl

theorem land : Statement .land := rfl

theorem lor : Statement .lor := rfl

theorem lnot : Statement .lnot := rfl

theorem rsvdA21 : Statement .rsvdA21 := rfl

theorem rsvdA22 : Statement .rsvdA22 := rfl

theorem rsvdA23 : Statement .rsvdA23 := rfl

theorem rsvdA24 : Statement .rsvdA24 := rfl

theorem rsvdA25 : Statement .rsvdA25 := rfl

theorem rsvdA26 : Statement .rsvdA26 := rfl

theorem rsvdA27 : Statement .rsvdA27 := rfl

theorem rsvdA28 : Statement .rsvdA28 := rfl

theorem rsvdA29 : Statement .rsvdA29 := rfl

theorem rsvdA30 : Statement .rsvdA30 := rfl

theorem rsvdA31 : Statement .rsvdA31 := rfl

theorem outc : Statement .outc := rfl

theorem inch : Statement .inch := rfl

theorem outi : Statement .outi := rfl

theorem rsvdIo3 : Statement .rsvdIo3 := rfl

theorem rsvdF13 : Statement .rsvdF13 := rfl

theorem rsvdF14 : Statement .rsvdF14 := rfl

theorem rsvdF15 : Statement .rsvdF15 := rfl

end Sys2Proof.Laws.EncodesItsRow
end

