-- ==== Sys2Proof/Tests/Slice0.lean ====
section
/-! SUPPORT. Small tests. Words come from the encodings of spec/30_encoding.md R100, expected results from the vectors of
spec/95_test_vectors.md (their ids stand in the comments). -/

open Sys2Proof Sys2Proof.Machine

namespace Sys2Proof.Tests

/-! ### Decoding: the word of each row, then words with don't-care bits set -/

theorem test_decode_no_ops :
    decodeTableWord 24 0x000000 = some .nop ∧ decodeTableWord 24 0x060000 = some .rsvdF6 ∧
    decodeTableWord 24 0x070000 = some .rsvdF7 ∧ decodeTableWord 24 0x0D0000 = some .rsvdF13 ∧
    decodeTableWord 24 0x0E0000 = some .rsvdF14 ∧ decodeTableWord 24 0x0F0000 = some .rsvdF15 := by decide

theorem test_decode_direction :
    decodeTableWord 24 0x010000 = some (.dir .east) ∧ decodeTableWord 24 0x010001 = some (.dir .south) ∧
    decodeTableWord 24 0x010002 = some (.dir .west) ∧ decodeTableWord 24 0x010003 = some (.dir .north) := by decide

theorem test_decode_jumps :
    decodeTableWord 24 0x020102 = some (.jmp 258) ∧ decodeTableWord 24 0x02FFFF = some (.jmp 65535) ∧
    decodeTableWord 24 0x030002 = some (.jz 2) ∧ decodeTableWord 24 0x030200 = some (.jz 512) := by decide

theorem test_decode_translocate :
    decodeTableWord 24 0x040000 = some .ijmp ∧ decodeTableWord 24 0x040001 = some .call ∧
    decodeTableWord 24 0x040002 = some .ret ∧ decodeTableWord 24 0x040003 = some .rsvdT3 := by decide

theorem test_decode_memory :
    decodeTableWord 24 0x050000 = some .store ∧ decodeTableWord 24 0x050001 = some .load ∧
    decodeTableWord 24 0x050002 = some .setp ∧ decodeTableWord 24 0x050003 = some .getp ∧
    decodeTableWord 24 0x050004 = some .incp ∧ decodeTableWord 24 0x050005 = some .decp ∧
    decodeTableWord 24 0x050006 = some .rsvdM6 ∧ decodeTableWord 24 0x050007 = some .rsvdM7 := by decide

theorem test_decode_constants :
    decodeTableWord 24 0x081234 = some (.push16 4660) ∧ decodeTableWord 24 0x090603 = some (.push2 6 3) := by decide

theorem test_decode_stack :
    decodeTableWord 24 0x0A0000 = some .drop ∧ decodeTableWord 24 0x0A0001 = some .dup ∧
    decodeTableWord 24 0x0A0002 = some .swap ∧ decodeTableWord 24 0x0A0003 = some .dup2 := by decide

theorem test_decode_arithmetic :
    decodeTableWord 24 0x0B0000 = some .add ∧ decodeTableWord 24 0x0B0001 = some .sub ∧
    decodeTableWord 24 0x0B0002 = some .mul ∧ decodeTableWord 24 0x0B0003 = some .div ∧
    decodeTableWord 24 0x0B0004 = some .mod ∧ decodeTableWord 24 0x0B0005 = some .or ∧
    decodeTableWord 24 0x0B0006 = some .and ∧ decodeTableWord 24 0x0B0007 = some .xor ∧
    decodeTableWord 24 0x0B0008 = some .not ∧ decodeTableWord 24 0x0B0009 = some .sar ∧
    decodeTableWord 24 0x0B000A = some .shr ∧ decodeTableWord 24 0x0B000B = some .shl := by decide

theorem test_decode_comparison_and_logic :
    decodeTableWord 24 0x0B000C = some .eq ∧ decodeTableWord 24 0x0B000D = some .ne ∧
    decodeTableWord 24 0x0B000E = some .gt ∧ decodeTableWord 24 0x0B000F = some .lt ∧
    decodeTableWord 24 0x0B0010 = some .ge ∧ decodeTableWord 24 0x0B0011 = some .le ∧
    decodeTableWord 24 0x0B0012 = some .land ∧ decodeTableWord 24 0x0B0013 = some .lor ∧
    decodeTableWord 24 0x0B0014 = some .lnot := by decide

theorem test_decode_reserved_alu :
    decodeTableWord 24 0x0B0015 = some .rsvdA21 ∧ decodeTableWord 24 0x0B0016 = some .rsvdA22 ∧
    decodeTableWord 24 0x0B0017 = some .rsvdA23 ∧ decodeTableWord 24 0x0B0018 = some .rsvdA24 ∧
    decodeTableWord 24 0x0B0019 = some .rsvdA25 ∧ decodeTableWord 24 0x0B001A = some .rsvdA26 ∧
    decodeTableWord 24 0x0B001B = some .rsvdA27 ∧ decodeTableWord 24 0x0B001C = some .rsvdA28 ∧
    decodeTableWord 24 0x0B001D = some .rsvdA29 ∧ decodeTableWord 24 0x0B001E = some .rsvdA30 ∧
    decodeTableWord 24 0x0B001F = some .rsvdA31 := by decide

theorem test_decode_input_output :
    decodeTableWord 24 0x0C0000 = some .outc ∧ decodeTableWord 24 0x0C0001 = some .inch ∧
    decodeTableWord 24 0x0C0002 = some .outi ∧ decodeTableWord 24 0x0C0003 = some .rsvdIo3 := by decide

/-- S2, S6, S7, S11, J5, T13, M13, M18, K4, D12, A116, A117, A118, O12. -/
theorem test_decode_ignores_dont_care_bits :
    decodeTableWord 24 0xF0FFFF = some .nop ∧ decodeTableWord 24 0x16FF07 = some .rsvdF6 ∧
    decodeTableWord 24 0x07ABCD = some .rsvdF7 ∧ decodeTableWord 24 0xFFFFFF = some .rsvdF15 ∧
    decodeTableWord 24 0x0100FE = some (.dir .west) ∧ decodeTableWord 24 0x0400FD = some .call ∧
    decodeTableWord 24 0x05000C = some .incp ∧ decodeTableWord 24 0x0500FF = some .rsvdM7 ∧
    decodeTableWord 24 0xF81234 = some (.push16 4660) ∧ decodeTableWord 24 0x0A00FF = some .dup2 ∧
    decodeTableWord 24 0x0B00E0 = some .add ∧ decodeTableWord 24 0x2B7723 = some .div ∧
    decodeTableWord 24 0x0B00FF = some .rsvdA31 ∧ decodeTableWord 24 0x0C00FE = some .outi := by decide

theorem test_decode_channels :
    decodeChannels [8, 1, 44, 7] = .ok (.push16 300, [7]) ∧
    decodeChannels [256, 0, 0] = .error .channelOutOfRange ∧ decodeChannels [0, 256, 0] = .error .channelOutOfRange ∧
    decodeChannels [0, 0, 256] = .error .channelOutOfRange ∧ decodeChannels [8, 1] = .error .truncatedCell :=
  ⟨rfl, rfl, rfl, rfl, rfl⟩

/-! ### Well-formedness: one ill-formed grid for each check (R5, R301, R342) -/

def black : Cell := ⟨0, 0, 0⟩

theorem test_wellformed_accepts : (Grid.mk 1 1 [black]).wellFormed = true := by decide

theorem test_wellformed_refuses_width :
    (Grid.mk 0 1 []).widthOk = false ∧ (Grid.mk 0 1 []).wellFormed = false ∧
    (Grid.mk (2 ^ 31) 1 []).widthOk = false ∧ (Grid.mk (2 ^ 31) 1 []).wellFormed = false := by decide

theorem test_wellformed_refuses_height :
    (Grid.mk 1 0 []).heightOk = false ∧ (Grid.mk 1 0 []).wellFormed = false ∧
    (Grid.mk 1 (2 ^ 31) []).heightOk = false ∧ (Grid.mk 1 (2 ^ 31) []).wellFormed = false := by decide

theorem test_wellformed_refuses_cell_count :
    (Grid.mk 2 1 [black]).cellsOk = false ∧ (Grid.mk 2 1 [black]).wellFormed = false ∧
    (Grid.mk 1 1 [black, black]).wellFormed = false := by decide

/-! ### One step on the default grid of spec/95_test_vectors.md section 2 -/

/-- The 8 by 8 grid with the cell `w` at `(x, y)`. -/
def gridAt (x y w : Nat) : Grid :=
  ⟨8, 8, List.replicate (8 * y + x) black ++ Cell.ofWord24 (BitVec.ofNat 24 w) :: List.replicate (63 - (8 * y + x)) black⟩

/-- The default state with the ip at `(x, y)` on the cell `w`; stacks are written bottom first. -/
def atCell (x y w : Nat) (stack : List Int) : State :=
  { State.construct (some (gridAt x y w)) with
    ipX := BitVec.ofNat 32 x, ipY := BitVec.ofNat 32 y, stack := (stack.map s32).reverse }

/-- The default state with the ip at (3,3). -/
def at33 (w : Nat) (stack : List Int) : State := atCell 3 3 w stack

/-- Whether a step of `s` answers exactly `t`, every field compared. -/
def stepsTo (s t : State) : Bool :=
  match step s with
  | .next u => decide (u = t)
  | _ => false

/-- The state with another stack, ip and halted flag. -/
def withIp (s : State) (stack : List Int) (x y : Int) (h : Bool := false) : State :=
  { s with stack := (stack.map s32).reverse, ipX := s32 x, ipY := s32 y, halted := h }

/-- Whether the cell `w` at (3,3) turns the stack `before` into `after` and only moves on to (4,3) (95 section 2.7). -/
def turns (w : Nat) (before after : List Int) : Bool := stepsTo (at33 w before) (withIp (at33 w before) after 4 3)

/-- The tape of these words. -/
def tapeOf (ws : List Int) : Memory :=
  (ws.zipIdx).foldl (fun m p => m.write p.2 (s32 p.1)) ⟨1, []⟩

/-- The state with this tape and pointer. -/
def withTape (s : State) (ws : List Int) (p : Nat) : State := { s with mem := tapeOf ws, memPtr := BitVec.ofNat 31 p }

/-- S1. -/
theorem test_nop : turns 0x000000 [5] [5] = true := by decide
/-- S4. -/
theorem test_nop_halts : stepsTo { atCell 3 0 0 [] with dir := .north }
    { withIp (atCell 3 0 0 []) [] 3 (-1) true with dir := .north } = true := by decide
/-- S5, S7. -/
theorem test_rsvdF6 : turns 0x060000 [5] [5] = true := by decide
theorem test_rsvdF7 : turns 0x07ABCD [5] [5] = true := by decide
/-- S8 to S10. -/
theorem test_rsvdF13 : turns 0x0D0000 [5] [5] = true := by decide
theorem test_rsvdF14 : turns 0x0E0102 [5] [5] = true := by decide
theorem test_rsvdF15 : turns 0x0F0000 [5] [5] = true := by decide

/-- J2. -/
theorem test_dir : stepsTo (at33 0x010001 []) { withIp (at33 0x010001 []) [] 3 4 with dir := .south } = true := by
  decide
/-- J6. -/
theorem test_dir_halts : stepsTo (atCell 0 0 0x010002 [])
    { withIp (atCell 0 0 0x010002 []) [] (-1) 0 true with dir := .west } = true := by decide
/-- J10. -/
theorem test_jmp : stepsTo { at33 0x020002 [] with dir := .west }
    { withIp (at33 0x020002 []) [] 0 3 with dir := .west } = true := by decide
/-- J13. -/
theorem test_jmp_largest : stepsTo (at33 0x02FFFF []) (withIp (at33 0x02FFFF []) [] 65539 3 true) = true := by decide
/-- J17. -/
theorem test_jz_taken : stepsTo (at33 0x030002 []) (withIp (at33 0x030002 []) [] 6 3) = true := by decide
/-- J16. -/
theorem test_jz_not_taken : turns 0x030002 [7, -1] [7] = true := by decide

/-- T2. -/
theorem test_ijmp : stepsTo { at33 0x040000 [5, 2] with dir := .south }
    { withIp (at33 0x040000 []) [] 5 3 with dir := .south } = true := by decide
/-- T10. -/
theorem test_ijmp_reenters : stepsTo (at33 0x040000 [-1, 4]) (withIp (at33 0x040000 []) [] 0 4) = true := by decide
/-- T5. -/
theorem test_call : stepsTo (at33 0x040001 [5, 2])
    { withIp (at33 0x040001 []) [] 6 2 with callStack := [⟨3, 3, .east⟩] } = true := by decide
/-- T8; the call stack is written top first here. -/
theorem test_ret : stepsTo { atCell 4 4 0x040002 [] with callStack := [⟨2, 5, .north⟩, ⟨1, 1, .south⟩] }
    { withIp (atCell 4 4 0x040002 []) [] 2 4 with callStack := [⟨1, 1, .south⟩], dir := .north } = true := by decide
/-- T7. -/
theorem test_ret_empty : stepsTo { at33 0x040002 [] with dir := .west } (withIp (at33 0x040002 []) [] 1 0) = true := by
  decide
/-- T14. -/
theorem test_rsvdT3 : turns 0x040003 [5, 2] [5, 2] = true := by decide

/-- M3. -/
theorem test_store : stepsTo (withTape (at33 0x050000 [4, -7]) [1, 0, 5] 2)
    (withTape (withIp (at33 0x050000 []) [4] 4 3) [1, 0, -7] 2) = true := by decide
/-- M2. -/
theorem test_store_empty : stepsTo (at33 0x050000 []) (withTape (withIp (at33 0x050000 []) [] 4 3) [0] 0) = true := by
  decide
/-- M5. -/
theorem test_load : stepsTo (withTape (at33 0x050001 [8]) [1, 0, 42] 2)
    (withTape (withIp (at33 0x050001 []) [8, 42] 4 3) [1, 0, 42] 2) = true := by decide
/-- M4. -/
theorem test_load_reset : turns 0x050001 [] [1] = true := by decide
/-- M6. -/
theorem test_setp : stepsTo (at33 0x050002 [4])
    (withTape (withIp (at33 0x050002 []) [] 4 3) [1, 0, 0, 0, 0] 4) = true := by decide
/-- M7. -/
theorem test_setp_clamps : stepsTo (withTape (at33 0x050002 [-3]) [1, 7] 1)
    (withTape (withIp (at33 0x050002 []) [] 4 3) [1, 7] 0) = true := by decide
/-- M10. -/
theorem test_getp : stepsTo (withTape (at33 0x050003 []) [1, 0, 0] 2)
    (withTape (withIp (at33 0x050003 []) [2] 4 3) [1, 0, 0] 2) = true := by decide
/-- M11. -/
theorem test_incp : stepsTo (at33 0x050004 []) (withTape (withIp (at33 0x050004 []) [] 4 3) [1, 0] 1) = true := by
  decide
/-- M14, M15. -/
theorem test_decp : stepsTo (withTape (at33 0x050005 []) [1, 5, 6] 2)
    (withTape (withIp (at33 0x050005 []) [] 4 3) [1, 5, 6] 1) = true := by decide
theorem test_decp_clamps : turns 0x050005 [] [] = true := by decide
/-- M16, M17. -/
theorem test_rsvdM6 : turns 0x050006 [5] [5] = true := by decide
theorem test_rsvdM7 : turns 0x050007 [5] [5] = true := by decide

/-- K4, K3. -/
theorem test_push16 : turns 0xF81234 [7] [7, 4660] = true := by decide
theorem test_push16_largest : turns 0x08FFFF [] [65535] = true := by decide
/-- K5, K6. -/
theorem test_push2 : turns 0x090603 [] [6, 3] = true := by decide
theorem test_push2_zero_extends : turns 0x0900FF [7] [7, 0, 255] = true := by decide

/-- D1, D2. -/
theorem test_drop : turns 0x0A0000 [1, 2] [1] = true := by decide
theorem test_drop_empty : turns 0x0A0000 [] [] = true := by decide
/-- D3, D4. -/
theorem test_dup : turns 0x0A0001 [1, 2] [1, 2, 2] = true := by decide
theorem test_dup_empty : turns 0x0A0001 [] [0, 0] = true := by decide
/-- D5, D6. -/
theorem test_swap : turns 0x0A0002 [1, 2, 3] [1, 3, 2] = true := by decide
theorem test_swap_one : turns 0x0A0002 [7] [7, 0] = true := by decide
/-- D9, D10. -/
theorem test_dup2 : turns 0x0A0003 [9, 1, 2] [9, 2, 1, 2, 1] = true := by decide
theorem test_dup2_one : turns 0x0A0003 [5] [5, 0, 5, 0] = true := by decide

/-- A2, A3. -/
theorem test_add : turns 0x0B0000 [9, 3, 4] [9, 7] = true := by decide
theorem test_add_wraps : turns 0x0B0000 [1, 2147483647] [-2147483648] = true := by decide
/-- A7, A11. -/
theorem test_sub : turns 0x0B0001 [7, 3] [-4] = true := by decide
theorem test_sub_wraps : turns 0x0B0001 [-2147483648, 0] [-2147483648] = true := by decide
/-- A14, A16. -/
theorem test_mul : turns 0x0B0002 [-3, 5] [-15] = true := by decide
theorem test_mul_wraps : turns 0x0B0002 [46341, 46341] [-2147479015] = true := by decide
/-- A22, A28. -/
theorem test_div : turns 0x0B0003 [2, -7] [-3] = true := by decide
theorem test_div_overflow : turns 0x0B0003 [-1, -2147483648] [-2147483648] = true := by decide
/-- A32, A36. -/
theorem test_mod : turns 0x0B0004 [3, -7] [-1] = true := by decide
theorem test_mod_zero : turns 0x0B0004 [0, 5] [0] = true := by decide
/-- A39, A42, A44. -/
theorem test_or : turns 0x0B0005 [10, 12] [14] = true := by decide
theorem test_and : turns 0x0B0006 [255, -1] [255] = true := by decide
theorem test_xor : turns 0x0B0007 [10, 12] [6] = true := by decide
/-- A47, A49. -/
theorem test_not : turns 0x0B0008 [7, 5] [7, -6] = true := by decide
theorem test_not_largest : turns 0x0B0008 [2147483647] [-2147483648] = true := by decide
/-- A52, A58. -/
theorem test_sar : turns 0x0B0009 [2, -16] [-4] = true := by decide
theorem test_sar_count : turns 0x0B0009 [-1, -16] [-1] = true := by decide
/-- A60, A63. -/
theorem test_shr : turns 0x0B000A [2, -16] [1073741820] = true := by decide
theorem test_shr_count : turns 0x0B000A [32, -1] [-1] = true := by decide
/-- A68, A71. -/
theorem test_shl : turns 0x0B000B [31, 3] [-2147483648] = true := by decide
theorem test_shl_count : turns 0x0B000B [33, 1] [2] = true := by decide
/-- A74, A75. -/
theorem test_eq : turns 0x0B000C [5, 6] [0] = true := by decide
theorem test_eq_empty : turns 0x0B000C [] [1] = true := by decide
/-- A77, A78. -/
theorem test_ne : turns 0x0B000D [5, 6] [1] = true := by decide
theorem test_ne_equal : turns 0x0B000D [5, 5] [0] = true := by decide
/-- A80, A83. -/
theorem test_gt : turns 0x0B000E [3, 5] [1] = true := by decide
theorem test_gt_signed : turns 0x0B000E [1, -1] [0] = true := by decide
/-- A86, A88. -/
theorem test_lt : turns 0x0B000F [3, 5] [0] = true := by decide
theorem test_lt_signed : turns 0x0B000F [2147483647, -2147483648] [1] = true := by decide
/-- A90, A91. -/
theorem test_ge : turns 0x0B0010 [5, 5] [1] = true := by decide
theorem test_ge_less : turns 0x0B0010 [5, 3] [0] = true := by decide
/-- A95, A96. -/
theorem test_le : turns 0x0B0011 [3, 5] [0] = true := by decide
theorem test_le_signed : turns 0x0B0011 [-1] [1] = true := by decide
/-- A98, A99. -/
theorem test_land : turns 0x0B0012 [0, 2] [0] = true := by decide
theorem test_land_negative : turns 0x0B0012 [-1, -1] [1] = true := by decide
/-- A102, A103. -/
theorem test_lor : turns 0x0B0013 [-7, 0] [1] = true := by decide
theorem test_lor_zero : turns 0x0B0013 [0, 0] [0] = true := by decide
/-- A108, A110. -/
theorem test_lnot : turns 0x0B0014 [9, 5] [9, 0] = true := by decide
theorem test_lnot_empty : turns 0x0B0014 [] [1] = true := by decide
/-- A111, A112, A114, A115; the other reserved subcodes share the rule (R265). -/
theorem test_rsvdA21 : turns 0x0B0015 [1, 2, 3] [1] = true := by decide
theorem test_rsvdA21_one : turns 0x0B0015 [7] [] = true := by decide
theorem test_rsvdA26 : turns 0x0B001A [4, 4, 4, 4] [4, 4] = true := by decide
theorem test_rsvdA31 : turns 0x0B001F [1, 2, 3] [1] = true := by decide

/-- O2. -/
theorem test_outc : stepsTo (at33 0x0C0000 [3, 10])
    { withIp (at33 0x0C0000 []) [3] 4 3 with output := [⟨.char, 10⟩] } = true := by decide
/-- O13. -/
theorem test_outc_then_halts : stepsTo (atCell 7 3 0x0C0000 [66])
    { withIp (atCell 7 3 0x0C0000 []) [] 8 3 true with output := [⟨.char, 66⟩] } = true := by decide
/-- O6. -/
theorem test_inch : turns 0x0C0001 [3] [3] = true := by decide
/-- O8, after an earlier event. -/
theorem test_outi : stepsTo { at33 0x0C0002 [] with output := [⟨.char, 65⟩] }
    { withIp (at33 0x0C0002 []) [] 4 3 with output := [⟨.char, 65⟩, ⟨.int, 0⟩] } = true := by decide
/-- O11. -/
theorem test_rsvdIo3 : turns 0x0C0003 [3] [3] = true := by decide

/-- O1, O7, O9, O10 and P8: the sink's text, with no separators. -/
theorem test_rendered_text :
    renderOutput [⟨.char, 65⟩] = ['A'] ∧ renderEvent ⟨.int, s32 (-2)⟩ = ['-', '2'] ∧
    String.ofList (renderEvent ⟨.int, s32 (-2147483648)⟩) = "-2147483648" ∧
    renderOutput [⟨.int, 0⟩, ⟨.int, 5⟩] = ['0', '5'] := by decide

/-! ### The step engine -/

/-- E1: the second request finds the machine halted and is reported as no step. -/
theorem test_halted_step :
    report (State.construct (some ⟨1, 1, [black]⟩)) = .stepTaken ∧
    stepsTo (State.construct (some ⟨1, 1, [black]⟩))
      { State.construct (some ⟨1, 1, [black]⟩) with ipX := 1, halted := true } = true ∧
    report { State.construct (some ⟨1, 1, [black]⟩) with ipX := 1, halted := true } = .noStep := by decide

/-- R44, R304: what the inspection port shows right after construction. -/
theorem test_reset_inspection : inspect State.reset = ⟨[], [1], 0, [], 0, 0, .east, false⟩ := by decide

theorem test_reset_has_no_grid : step State.reset = .refused .noGrid := rfl

/-- The model's loader: the word is the first instruction after reset. -/
theorem test_withFetchWord :
    stepsTo (State.reset.withFetchWord 24 0x080041)
      { State.construct (some ⟨1, 1, [⟨8, 0, 65⟩]⟩) with ipX := 1, halted := true, stack := [65] } = true := by
  decide

/-! ### Witnesses: for each statement with hypotheses, a state and operands that meet them together -/

/-- A running machine on a 1 by 1 grid with the cell `w` under the ip; the stack is written bottom first. -/
def one (w : Nat) (stack : List Int) : State :=
  { State.construct (some ⟨1, 1, [Cell.ofWord24 (BitVec.ofNat 24 w)]⟩) with stack := (stack.map s32).reverse }

/-- `one` as a step of it leaves it when the handler left the stack `stack`: one cell east, outside the grid. -/
def oneOut (w : Nat) (stack : List Int) : State := { one w stack with ipX := 1, halted := true }

theorem executes_one (w : Nat) (stack : List Int) :
    Executes (one w stack) (decode (Cell.ofWord24 (BitVec.ofNat 24 w))) := ⟨rfl, _, rfl, rfl⟩

theorem witness_DecodeIgnoresDontCareBits :
    (Cell.mk 0x2B 0x77 0x23).word24 &&& careMask (decode ⟨0x0B, 0, 3⟩) =
      (Cell.mk 0x0B 0 3).word24 &&& careMask (decode ⟨0x0B, 0, 3⟩) := by decide

theorem witness_EachCellMatchesExactlyItsRow :
    (Cell.mk 0x2B 0x77 0x23).word24 &&& selectMask .div = tableMatch .div := by decide

theorem witness_TableWordIsThePackedCell :
    (0 < 2 ^ 24 ∧ 2 ^ 24 - 1 < 2 ^ 24) ∧ 2 ^ 24 ≤ 2 ^ 24 ∧ 2 ^ 24 < 2 ^ 25 := by decide

theorem witness_StepRunsTheDecodedInstruction :
    (one 0x080041 []).halted = false ∧ fetch (one 0x080041 []) = .next ⟨8, 0, 65⟩ ∧
    exec (decode ⟨8, 0, 65⟩) (one 0x080041 []) = .next (one 0x080041 [65]) := ⟨rfl, rfl, rfl⟩

theorem witness_LoadedWordIsExecutedNext :
    decodeTableWord 24 0x080041 = some (.push16 65) ∧ decodeTableWord 24 0xFFFFFF = some .rsvdF15 := by decide

theorem witness_HaltedMachineIgnoresSteps : (oneOut 0 []).halted = true := rfl

theorem witness_StepHaltsExactlyOutsideTheGrid :
    ((one 0 []).halted = false ∧ (one 0 []).grid = some ⟨1, 1, [black]⟩ ∧ step (one 0 []) = .next (oneOut 0 [])) ∧
    ((at33 0 []).halted = false ∧ (at33 0 []).grid = some (gridAt 3 3 0) ∧
      step (at33 0 []) = .next { at33 0 [] with ipX := 4 }) ∧
    exec .drop (one 0 [5]) = .next (one 0 []) := ⟨⟨rfl, rfl, rfl⟩, ⟨rfl, rfl, rfl⟩, rfl⟩

theorem witness_FetchReadsTheCellAtTheIp :
    ((atCell 0 0 0 []).grid = some (gridAt 0 0 0) ∧ (gridAt 0 0 0).wellFormed = true ∧
      (gridAt 0 0 0).inGrid (atCell 0 0 0 []).ipX (atCell 0 0 0 []).ipY = true) ∧
    ((atCell 7 7 0 []).grid = some (gridAt 7 7 0) ∧ (gridAt 7 7 0).wellFormed = true ∧
      (gridAt 7 7 0).inGrid (atCell 7 7 0 []).ipX (atCell 7 7 0 []).ipY = true) := by decide

/-- Each side of the two equivalences is met by some state. -/
theorem witness_StepStopsOnlyOutsideItsPreconditions :
    step { one 0 [] with ipX := 1 } = .fault .fetchOutsideGrid ∧ step State.reset = .refused .noGrid ∧
    step (State.construct (some ⟨0, 1, []⟩)) = .refused .gridRejected ∧
    step (State.construct (some ⟨2 ^ 31, 1, []⟩)) = .refused .gridRejected := ⟨rfl, rfl, rfl, rfl⟩

theorem witness_ConstructionGivesTheResetValues :
    (Grid.mk 1 1 [black]).wellFormed = true ∧ (Grid.mk 1 0 []).wellFormed = false := by decide

theorem witness_PopYieldsTheTopOrZero : (one 0 []).stack = [] ∧ (one 0 [7, 5]).stack = 5 :: [7] := by decide

theorem witness_FramesArePushedAndPoppedOnTop :
    (one 0 []).callStack = [] ∧ { one 0 [] with callStack := [⟨3, 3, .south⟩] }.callStack = ⟨3, 3, .south⟩ :: [] := by decide

theorem witness_ExtendAppendsZeros : State.reset.mem.wf ∧ (tapeOf [9, 0, 42]).wf := by decide

theorem witness_ReadYieldsTheWordAndExtends : (tapeOf [9, 0, 42]).wf ∧ 2 < (tapeOf [9, 0, 42]).len := by decide

theorem witness_WriteReplacesOneWord : (tapeOf [9, 0, 42]).wf ∧ (1 : Nat) ≠ 2 := by decide

/-- Two tapes written in different orders. -/
theorem witness_TapesWithEqualWordsAreEqual :
    ((tapeOf [1, 7]).write 2 5).wf ∧ ((tapeOf [1, 0, 5]).write 1 7).wf ∧
    ((tapeOf [1, 7]).write 2 5).toList = ((tapeOf [1, 0, 5]).write 1 7).toList := by decide

theorem witness_DirTurnsInTheSameStep :
    (Cell.mk 0xF1 0 0xFF).r.toNat % 16 = 1 ∧ Executes (one 0x010003 []) (.dir .north) := ⟨rfl, executes_one _ _⟩

theorem witness_JumpsDisplaceTheIp :
    (Cell.mk 0xF2 0xFF 0xFF).r.toNat % 16 = 2 ∧ (Cell.mk 0x03 0 0).r.toNat % 16 = 3 ∧
    (one 0 []).top = 0 ∧ (one 0 [5, 0]).top = 0 ∧ (one 0 [0, -1]).top ≠ 0 := by decide

theorem witness_JumpsMoveOneCellMore :
    Executes (one 0x020000 []) (.jmp 0) ∧ Executes (one 0x02FFFF []) (.jmp 65535) ∧
    (Executes (one 0x030000 []) (.jz 0) ∧ (one 0x030000 []).top = 0) ∧
    (Executes (one 0x03FFFF [7, 0]) (.jz 65535) ∧ (one 0x03FFFF [7, 0]).top = 0) :=
  ⟨executes_one _ _, executes_one _ _, ⟨executes_one _ _, rfl⟩, ⟨executes_one _ _, rfl⟩⟩

theorem witness_TransfersLandOneCellBeyond :
    Executes (one 0x040000 []) .ijmp ∧ Executes (one 0x040001 [5, 2]) .call ∧ Executes (one 0x040002 []) .ret :=
  ⟨executes_one _ _, executes_one _ _, executes_one _ _⟩

/-- CALL, NOP, RET in a row: the call goes to (0,0) and lands on the NOP. -/
def callRow : State := State.construct (some ⟨3, 1, [⟨4, 0, 1⟩, black, ⟨4, 0, 2⟩]⟩)

/-- After the CALL. -/
def callRow1 : State := { callRow with ipX := 1, callStack := [⟨0, 0, .east⟩] }

/-- After the NOP, at the RET. -/
def callRow2 : State := { callRow1 with ipX := 2 }

theorem witness_ReturnRestoresTheCall :
    Executes callRow .call ∧ step callRow = .next callRow1 ∧
    (∀ k, k ≤ 1 → ∃ u : State, Host.Core.run Sys2Proof.core k callRow1 = .next u ∧
      callRow1.callStack.length ≤ u.callStack.length) ∧
    Host.Core.run Sys2Proof.core 1 callRow1 = .next callRow2 ∧ Executes callRow2 .ret ∧
    callRow2.callStack.length = callRow1.callStack.length := by
  refine ⟨⟨rfl, _, rfl, rfl⟩, rfl, fun k hk => ?_, rfl, ⟨rfl, _, rfl, rfl⟩, rfl⟩
  match k, hk with
  | 0, _ => exact ⟨callRow1, rfl, le_refl 1⟩
  | 1, _ => exact ⟨callRow2, rfl, le_refl 1⟩

theorem witness_StoreWritesTheCellAtThePointer :
    ((Cell.mk 0xF5 0xFF 0xF8).r.toNat % 16 = 5 ∧ (Cell.mk 0xF5 0xFF 0xF8).b.toNat % 8 = 0) ∧
    (withTape (one 0 [4]) [1, 0, 5] 2).mem.wf ∧ (2 : Nat) < (withTape (one 0 [4]) [1, 0, 5] 2).mem.len ∧ (1 : Nat) ≠ 2 := by
  decide

theorem witness_LoadPushesTheCellAtThePointer :
    ((Cell.mk 0xF5 0xFF 0xF9).r.toNat % 16 = 5 ∧ (Cell.mk 0xF5 0xFF 0xF9).b.toNat % 8 = 1) ∧
    (withTape (one 0 []) [1, 0, 5] 2).mem.wf ∧ (2 : Nat) < (withTape (one 0 []) [1, 0, 5] 2).mem.len := by decide

theorem witness_SetpClampsAndExtends :
    ((Cell.mk 0xF5 0xFF 0xFA).r.toNat % 16 = 5 ∧ (Cell.mk 0xF5 0xFF 0xFA).b.toNat % 8 = 2) ∧
    (one 0 [-2147483648]).mem.wf ∧ (one 0 [2147483647]).mem.wf := by decide

theorem witness_GetpAndDecpLeaveTheTape :
    ((Cell.mk 0xF5 0xFF 0xFB).r.toNat % 16 = 5 ∧ (Cell.mk 0xF5 0xFF 0xFB).b.toNat % 8 = 3) ∧
    (Cell.mk 0xF5 0xFF 0xFD).r.toNat % 16 = 5 ∧ (Cell.mk 0xF5 0xFF 0xFD).b.toNat % 8 = 5 := by decide

/-- The reset state, and the pointer at its maximum on a tape of full length. -/
theorem witness_IncpRaisesThePointerAndSaturates :
    (one 0 []).mem.wf ∧ { one 0 [] with memPtr := memPtrMax, mem := ⟨2 ^ 31, [(2 ^ 31 - 1, 7)]⟩ }.mem.wf := by decide

theorem witness_Push16PushesItsConstant : (Cell.mk 0xF8 0xFF 0xFF).r.toNat % 16 = 8 := by decide

theorem witness_Push2PushesGreenThenBlue : (Cell.mk 0xF9 0xFF 0xFF).r.toNat % 16 = 9 := by decide

theorem witness_DropDiscardsTheTop :
    ((Cell.mk 0xFA 0xFF 0xFC).r.toNat % 16 = 10 ∧ (Cell.mk 0xFA 0xFF 0xFC).b.toNat % 4 = 0) ∧ (one 0 []).stack = [] := by
  decide

theorem witness_ZeroDivisorGivesZero :
    (one 0 [0, -2147483648]).second = 0 ∧ (one 0 [5]).second = 0 ∧ (one 0 []).second = 0 := by decide

theorem witness_QuotientAndRemainderRecombine : (-1 : Word) ≠ 0 ∧ (1 : Word) ≠ 0 := by decide

theorem witness_ReservedAluSubcodesPopTwo :
    Instr.rsvdA21 ∈ [Instr.rsvdA21, .rsvdA22, .rsvdA23, .rsvdA24, .rsvdA25, .rsvdA26, .rsvdA27, .rsvdA28, .rsvdA29,
      .rsvdA30, .rsvdA31] := by decide

theorem witness_AluChangesOnlyTheTopOfTheStack :
    (Cell.mk 0x0B 0 0).r.toNat % 16 = 11 ∧ (Cell.mk 0xFB 0xFF 0xFF).r.toNat % 16 = 11 := by decide

theorem witness_NoOpsOnlyAdvanceTheIp :
    Instr.nop ∈ [Instr.nop, .rsvdT3, .rsvdM6, .rsvdM7, .rsvdF6, .rsvdF7, .inch, .rsvdIo3, .rsvdF13, .rsvdF14, .rsvdF15] ∧
    Executes (one 0x000000 []) .nop ∧ Executes (one 0x0C0001 [3]) .inch :=
  ⟨by decide, executes_one _ _, executes_one _ _⟩

theorem witness_OutputGrowsByAtMostOneEvent :
    step (one 0x0C0000 [65]) = .next { oneOut 0x0C0000 [] with output := [⟨.char, 65⟩] } ∧
    step (one 0x0C0002 []) = .next { oneOut 0x0C0002 [] with output := [⟨.int, 0⟩] } := ⟨rfl, rfl⟩

theorem witness_TraceIsNeverRead :
    Host.Core.run Sys2Proof.core 2 (one 0x0C0000 [65]) = .next { oneOut 0x0C0000 [] with output := [⟨.char, 65⟩] } := rfl

theorem witness_RenderedTextIsAsciiAndShortestDecimal :
    (0 : Word).toNat ≤ 127 ∧ (127 : Word).toNat ≤ 127 ∧ (s32 (-2147483648)).toInt < 0 ∧ ¬ (0 : Word).toInt < 0 := by decide

/-- One instruction that changes each register, so that no clause is empty. -/
theorem witness_StateIsWrittenByItsInstructionsOnly :
    exec (.dir .west) (one 0 []) = .next { one 0 [] with dir := .west } ∧
    exec .setp (one 0 [1]) = .next { one 0 [] with memPtr := 1, mem := ⟨2, []⟩ } ∧
    exec .decp { one 0 [] with memPtr := 1, mem := ⟨2, []⟩ } = .next { one 0 [] with mem := ⟨2, []⟩ } ∧
    exec .drop (one 0 [9]) = .next (one 0 []) ∧
    exec (.jmp 2) (one 0 []) = .next { one 0 [] with ipX := 2 } ∧
    exec .store (one 0 [9]) = .next { one 0 [] with mem := ⟨1, [(0, 9)]⟩ } ∧
    exec .call (one 0 [1, 1]) = .next { one 0 [] with ipX := 1, ipY := 1, callStack := [⟨0, 0, .east⟩] } ∧
    exec .outi (one 0 [9]) = .next { one 0 [] with output := [⟨.int, 9⟩] } := ⟨rfl, rfl, rfl, rfl, rfl, rfl, rfl, rfl⟩

theorem witness_OnlyStoreChangesAWord :
    (one 0x050000 [9]).mem.wf ∧ step (one 0x050000 [9]) = .next { oneOut 0x050000 [] with mem := ⟨1, [(0, 9)]⟩ } ∧
    (Memory.mk 1 [(0, 9)]).word 0 ≠ (one 0x050000 [9]).mem.word 0 := ⟨by decide, rfl, by decide⟩

theorem witness_ResetSatisfiesTheInvariant : (gridAt 3 3 0).wellFormed = true := by decide

/-- The invariant holds in the default state with frames and a tape, and a step of it answers a next state. -/
theorem witness_StepKeepsTheInvariant :
    Inv { withTape (at33 0x040001 [5, 2]) [1, 0, 7] 2 with callStack := [⟨7, 7, .west⟩] } ∧
    step { withTape (at33 0x040001 [5, 2]) [1, 0, 7] 2 with callStack := [⟨7, 7, .west⟩] } =
      .next { withTape (withIp (at33 0x040001 []) [] 6 2) [1, 0, 7] 2 with
        callStack := [⟨3, 3, .east⟩, ⟨7, 7, .west⟩] } :=
  ⟨⟨by decide, by decide, by decide, by decide, by decide, by decide, by decide⟩, rfl⟩

theorem witness_RunsNeverStop :
    (Grid.mk 1 1 [black]).wellFormed = true ∧ Reachable ⟨1, 1, [black]⟩ (oneOut 0 []) :=
  ⟨by decide, .next (s := one 0 []) .start rfl⟩

theorem witness_InspectionDeterminesTheState :
    (withTape (one 0 [7]) [1, 0, 5] 2).mem.wf ∧
    inspect (withTape (one 0 [7]) [1, 0, 5] 2) = inspect { one 0 [7] with mem := ⟨3, [(2, 5)]⟩, memPtr := 2 } ∧
    (withTape (one 0 [7]) [1, 0, 5] 2).grid = (one 0 [7]).grid ∧
    (withTape (one 0 [7]) [1, 0, 5] 2).output = (one 0 [7]).output := by decide

/-- The clause for displacements at both ends of its range; the clause `n = 1` asks only for a well-formed grid. -/
theorem witness_WrapNeverDecidesTheHalt :
    (Grid.mk 1 1 [black]).wellFormed = true ∧ (Grid.mk 1 1 [black]).inGrid 0 0 = true ∧ (0 : Nat) ≤ 65536 ∧
    (gridAt 0 0 0).wellFormed = true ∧ (gridAt 0 0 0).inGrid 7 7 = true ∧ (65536 : Nat) ≤ 65536 := by decide

end Sys2Proof.Tests
end

section
/-! PROOFS. The data stack and the call stack: `Pop` (R23), `FramePush` (R31) and `FramePop` (R32), one equation per
case of the stack they work on. -/

namespace Sys2Proof.Machine

/-! ### `Pop` by the shape of the data stack -/

theorem State.pop_of_stack_nil {s : State} (h : s.stack = []) : s.pop = (0, s) := by
  simp only [State.pop, h]

theorem State.pop_of_stack_cons {s : State} {v : Word} {rest : List Word} (h : s.stack = v :: rest) :
    s.pop = (v, { s with stack := rest }) := by
  simp only [State.pop_eq, State.top, h, List.headD_cons, List.tail_cons]

theorem State.pop_stack_length_of_ne_nil {s : State} (h : s.stack ≠ []) :
    s.pop.2.stack.length + 1 = s.stack.length := by
  rw [State.pop_snd]
  exact List.length_tail_add_one s.stack (List.length_pos_of_ne_nil h)

/-! ### `FramePop` by the shape of the call stack -/

theorem State.framePop_of_callStack_nil {s : State} (h : s.callStack = []) : s.framePop = (⟨0, 0, .east⟩, s) := by
  simp only [State.framePop, h, originFrame]

theorem State.framePop_of_callStack_cons {s : State} {f : Frame} {rest : List Frame} (h : s.callStack = f :: rest) :
    s.framePop = (f, { s with callStack := rest }) := by
  simp only [State.framePop_eq, State.topFrame, h, List.headD_cons, List.tail_cons]

/-! ### The obligations -/

/-- Settles O16, by the two shapes of the data stack. -/
theorem popYieldsTheTopOrZero : Obligations.PopYieldsTheTopOrZero := by
  intro s
  refine ⟨State.pop_of_stack_nil, fun v rest h => ⟨State.pop_of_stack_cons h, ?_⟩⟩
  have nonempty : s.stack ≠ [] := by simp [h]
  exact State.pop_stack_length_of_ne_nil nonempty

/-- Settles O17: a pushed frame stands on top by definition, and a pop goes by the two shapes of the call stack. -/
theorem framesArePushedAndPoppedOnTop : Obligations.FramesArePushedAndPoppedOnTop := by
  intro s
  refine ⟨fun x y d => ⟨rfl, ?_⟩, State.framePop_of_callStack_nil, fun _ _ => State.framePop_of_callStack_cons⟩
  rw [State.framePush_callStack, List.length_cons]

end Sys2Proof.Machine
end

section
/-! PROOFS. The tape as a sequence of words: what `Extend` (R61), `MemRead` (R62) and `MemWrite` (R63) do to it. -/

namespace Sys2Proof.Machine

/-! ### `Extend` on the sequence of words -/

theorem Memory.lt_extend_len (m : Memory) (i : Nat) : i < (m.extend i).len := by
  rw [Memory.extend_len]
  exact Nat.lt_of_lt_of_le (Nat.lt_succ_self i) (Nat.le_max_right _ _)

@[simp] theorem Memory.extend_extend (m : Memory) (i : Nat) : (m.extend i).extend i = m.extend i :=
  Memory.extend_of_lt (m.lt_extend_len i)

/-- The canonical form lists no word at or beyond the length, so the cells an extension brings into the tape read 0. -/
theorem Memory.extend_toList {m : Memory} (h : m.wf) (i : Nat) :
    (m.extend i).toList = m.toList ++ List.replicate (i + 1 - m.len) 0 := by
  have len_eq : (m.extend i).len = m.len + (i + 1 - m.len) := by rw [Memory.extend_len]; omega
  have new_cells : ((List.range (i + 1 - m.len)).map (m.len + ·)).map m.word = List.replicate (i + 1 - m.len) 0 := by
    rw [List.eq_replicate_iff]
    refine ⟨by simp, fun w hw => ?_⟩
    obtain ⟨a, ha, rfl⟩ := List.mem_map.mp hw
    obtain ⟨k, -, rfl⟩ := List.mem_map.mp ha
    exact Memory.word_of_len_le h (Nat.le_add_right _ _)
  calc (m.extend i).toList
      = (List.range (m.len + (i + 1 - m.len))).map m.word := by rw [Memory.toList, len_eq]; rfl
    _ = m.toList ++ ((List.range (i + 1 - m.len)).map (m.len + ·)).map m.word := by
        rw [List.range_add, List.map_append, Memory.toList]
    _ = m.toList ++ List.replicate (i + 1 - m.len) 0 := by rw [new_cells]

/-! ### `MemWrite` on the words and on their sequence -/

theorem Memory.write_word_same {m : Memory} (h : m.wf) (a : Nat) (v : Word) : (m.write a v).word a = v := by
  rw [Memory.write_word h, if_pos rfl]

theorem Memory.write_word_of_ne {m : Memory} (h : m.wf) {a b : Nat} (v : Word) (hb : b ≠ a) :
    (m.write a v).word b = m.word b := by
  rw [Memory.write_word h, if_neg hb]

theorem Memory.write_toList {m : Memory} (h : m.wf) (a : Nat) (v : Word) :
    (m.write a v).toList = (m.extend a).toList.set a v := by
  apply List.ext_getElem?
  intro b
  rw [List.getElem?_set, Memory.toList_get?, Memory.write_len, ← Memory.extend_len]
  by_cases hb : b = a
  · subst hb
    simp [m.lt_extend_len b, Memory.write_word_same h, -Memory.extend_len]
  · rw [if_neg (Ne.symm hb), Memory.toList_get?, Memory.write_word_of_ne h v hb, Memory.extend_word]

/-! ### `MemRead` on the sequence of words -/

/-- The word a read yields is an entry of the tape it leaves, also where the address lay beyond the tape before. -/
theorem Memory.extend_toList_get?_self (m : Memory) (a : Nat) : (m.extend a).toList[a]? = some (m.read a).1 := by
  rw [Memory.toList_get?, if_pos (m.lt_extend_len a), Memory.read_eq, Memory.extend_word]

theorem Memory.read_of_lt {m : Memory} {a : Nat} (ha : a < m.len) : m.read a = (m.word a, m) := by
  rw [Memory.read_eq, Memory.extend_of_lt ha]

/-- A second read of one address finds it inside the tape and the word as the first read found it. -/
theorem Memory.read_read (m : Memory) (a : Nat) : (m.read a).2.read a = m.read a := by
  simp only [Memory.read_eq, Memory.extend_word, Memory.extend_extend]

/-! ### The obligations -/

/-- Settles O18: the new cells are the words past the length of a canonical tape; that every access and every raising
pointer move begins with the extension is how each is defined. -/
theorem extendAppendsZeros : Obligations.ExtendAppendsZeros := by
  intro m i h
  exact ⟨m.extend_len i, Memory.extend_toList h i, congrArg Prod.snd (m.read_eq i), fun _ => rfl, fun _ _ => rfl⟩

/-- Settles O20: entry by entry, the written index and the others. -/
theorem writeReplacesOneWord : Obligations.WriteReplacesOneWord := by
  intro m a v h
  exact ⟨Memory.write_toList h a v, Memory.write_word_same h a v, fun _ => Memory.write_word_of_ne h v⟩

/-- Settles O19: a read is the word and the extension, and an extension changes no word. -/
theorem readYieldsTheWordAndExtends : Obligations.ReadYieldsTheWordAndExtends := by
  intro m a _
  refine ⟨m.extend_toList_get?_self a, congrArg Prod.snd (m.read_eq a), fun b _ => m.extend_word a b, ?_, m.read_read a⟩
  intro ha
  rw [Memory.read_of_lt ha]

end Sys2Proof.Machine
end

section
/-! PROOFS. The step engine on a halted machine: one request (R131), its report (R137), and any number of requests. -/

namespace Sys2Proof.Machine

/-! ### One request on a halted machine -/

theorem step_of_halted {s : State} (h : s.halted = true) : step s = .next s := by
  simp only [step, if_pos h]

theorem report_of_halted {s : State} (h : s.halted = true) : report s = .noStep := by
  simp only [report, if_pos h]

/-! ### Runs from a state that a request leaves as it is -/

theorem run_of_step_self {s : State} (h : step s = .next s) (n : Nat) :
    Host.Core.run Sys2Proof.core n s = .next s := by
  induction n with
  | zero => rfl
  | succ n ih =>
    rw [run_succ_first, h]
    exact ih

/-! ### The obligations -/

/-- Settles O9: a halted machine is a fixed point of a request, so by induction of any number of them. -/
theorem haltedMachineIgnoresSteps : Obligations.HaltedMachineIgnoresSteps := by
  intro s n halted
  have fixed : step s = .next s := step_of_halted halted
  exact ⟨fixed, run_of_step_self fixed n, report_of_halted halted⟩

end Sys2Proof.Machine
end

section
/-! PROOFS. The relative jumps: what the handlers of JMP (R151) and JZ (R152) do, and the double movement of their step
(R153). -/

namespace Sys2Proof.Machine

/-! ### The step of a running machine -/

/-- A step is EXECUTE, then ADVANCE by one cell and HALT TEST on the state the handler left (R130, R135, R136). -/
theorem step_of_executes {s t : State} {i : Instr} (h : Executes s i) (he : exec i s = .next t) :
    step s = .next (t.move 1).haltTest := by
  obtain ⟨running, c, fetched, rfl⟩ := h
  simp [step, running, fetched, he, finishStep_eq]

/-- A handler that moves the ip `n` cells makes its step a move of `n + 1`: a move keeps the direction, so the advance
goes on along the same line. -/
theorem step_of_exec_move {s t : State} {i : Instr} {n : Nat} (h : Executes s i) (he : exec i s = .next (t.move n)) :
    step s = .next (t.move (n + 1)).haltTest := by
  rw [step_of_executes h he, State.move_move]

/-! ### The handlers of the jumps -/

theorem exec_jmp (n : BitVec 16) (s : State) : exec (.jmp n) s = .next (s.move n.toNat) := rfl

/-- Everything JZ does: it pops in both cases, and moves what the pop left if the value was zero (R152). -/
theorem exec_jz (n : BitVec 16) (s : State) : exec (.jz n) s =
    if s.top = 0 then .next (State.move n.toNat { s with stack := s.stack.tail })
    else .next { s with stack := s.stack.tail } := by
  change execJz n s = _
  simp only [execJz, State.pop_eq]

theorem exec_jz_of_top_eq_zero {s : State} (h : s.top = 0) (n : BitVec 16) :
    exec (.jz n) s = .next (State.move n.toNat { s with stack := s.stack.tail }) := by
  rw [exec_jz, if_pos h]

/-! ### The obligation -/

/-- Settles O24: JMP and a taken JZ move a state by `n`, and the advance of the step moves it one cell more. -/
theorem jumpsMoveOneCellMore : Obligations.JumpsMoveOneCellMore := by
  intro n s
  refine ⟨fun jumps => ?_, fun jumps taken => ?_⟩
  · exact step_of_exec_move jumps (exec_jmp n s)
  · exact step_of_exec_move jumps (exec_jz_of_top_eq_zero taken n)

end Sys2Proof.Machine
end

section
/-! PROOFS. The memory-tape instructions STORE (R190), LOAD (R191), SETP (R192), GETP (R193) and DECP (R195): their
encodings, the pointer values they make, and everything their handlers do. -/

namespace Sys2Proof.Machine

/-! ### The encodings of family 5 -/

/-- The low nibble of red selects the family and the low three bits of blue its instruction; nothing else is read
(R92, R94). -/
theorem decode_of_memory_family {c : Cell} {k : Nat} (family : c.r.toNat % 16 = 5) (subcode : c.b.toNat % 8 = k) :
    decode c = decodeMemory k := by
  have hf : c.family = 5 := family
  have hk : c.sub8 = k := subcode
  simp only [decode, hf, hk]

/-! ### Pointer values -/

theorem clampPtr_toNat (v : Word) : ((clampPtr v).toNat : Int) = max 0 v.toInt := by
  rcases lt_or_ge v.toInt 0 with negative | nonneg
  · rw [clampPtr, if_pos negative, max_eq_left negative.le]
    rfl
  · have below : v.toInt < 2 ^ 31 := BitVec.toInt_lt
    rw [clampPtr, if_neg (not_lt.mpr nonneg), max_eq_right nonneg, BitVec.toNat_ofInt]
    omega

/-- A pointer has 31 bits, so the sign bit of the word that carries it is 0 (R28). -/
theorem memPtr_setWidth_toInt (p : MemPtr) : (p.setWidth 32).toInt = p.toNat := by
  have bound : p.toNat < 2 ^ 31 := p.isLt
  rw [BitVec.toInt_eq_toNat_of_lt] <;> rw [BitVec.toNat_setWidth] <;> omega

theorem memPtr_sub_one_toNat {p : MemPtr} (h : 0 < p) : (p - 1).toNat = p.toNat - 1 := by
  bv_omega

/-! ### The handlers -/

theorem exec_store (s : State) : exec .store s =
    .next { s with stack := s.stack.tail, mem := s.mem.write s.memPtr.toNat s.top } := by
  change execStore s = _
  simp only [execStore, State.pop_eq, State.memWrite]

theorem exec_load (s : State) : exec .load s =
    .next { s with stack := s.mem.word s.memPtr.toNat :: s.stack, mem := s.mem.extend s.memPtr.toNat } := by
  change execLoad s = _
  simp only [execLoad, State.memRead, Memory.read_eq, State.push]

theorem exec_setp (s : State) : exec .setp s =
    .next { s with stack := s.stack.tail, memPtr := clampPtr s.top, mem := s.mem.extend (clampPtr s.top).toNat } := by
  change execSetp s = _
  simp only [execSetp, State.pop_eq, State.movePtr]

theorem exec_getp (s : State) : exec .getp s = .next { s with stack := s.memPtr.setWidth 32 :: s.stack } := rfl

theorem exec_decp_of_pos {s : State} (h : 0 < s.memPtr) : exec .decp s = .next { s with memPtr := s.memPtr - 1 } := by
  change execDecp s = _
  rw [execDecp, if_pos h, State.setPtr]

theorem exec_decp_of_not_pos {s : State} (h : ¬ 0 < s.memPtr) : exec .decp s = .next s := by
  change execDecp s = _
  rw [execDecp, if_neg h]

/-! ### The obligations -/

/-- Settles O28: the handler is one pop and one write, and what a write does to the tape is known word by word. -/
theorem storeWritesTheCellAtThePointer : Obligations.StoreWritesTheCellAtThePointer := by
  refine ⟨fun _ => decode_of_memory_family, rfl, fun s wf => ?_⟩
  refine ⟨s.mem.write s.memPtr.toNat s.top, exec_store s, Memory.write_toList wf _ _, fun inside => ?_,
    fun a other => Memory.write_word_of_ne wf _ other⟩
  rw [Memory.write_len]
  exact Nat.max_eq_left inside

/-- Settles O29: the handler pushes the word a read yields and keeps the extended tape, in which every word stands. -/
theorem loadPushesTheCellAtThePointer : Obligations.LoadPushesTheCellAtThePointer := by
  refine ⟨fun _ => decode_of_memory_family, rfl, fun s _ => ?_⟩
  exact ⟨s.mem.word s.memPtr.toNat, s.mem.extend s.memPtr.toNat, exec_load s, rfl,
    s.mem.extend_toList_get?_self s.memPtr.toNat, s.mem.extend_word s.memPtr.toNat, Memory.extend_of_lt⟩

/-- Settles O30: the new pointer is the clamped value of the popped word, and the tape is extended to it. -/
theorem setpClampsAndExtends : Obligations.SetpClampsAndExtends := by
  refine ⟨fun _ => decode_of_memory_family, rfl, fun s wf => ?_⟩
  exact ⟨clampPtr s.top, s.mem.extend (clampPtr s.top).toNat, exec_setp s, clampPtr_toNat s.top,
    Memory.extend_toList wf _⟩

/-- Settles O31: GETP pushes the 31-bit pointer, and DECP goes by whether the pointer is positive; at 0 it does
nothing, which is the pointer less one in the naturals. -/
theorem getpAndDecpLeaveTheTape : Obligations.GetpAndDecpLeaveTheTape := by
  refine ⟨fun _ => decode_of_memory_family, rfl, fun _ => decode_of_memory_family, rfl, fun s => ⟨?_, ?_⟩⟩
  · exact ⟨s.memPtr.setWidth 32, exec_getp s, memPtr_setWidth_toInt s.memPtr⟩
  · by_cases positive : 0 < s.memPtr
    · exact ⟨s.memPtr - 1, exec_decp_of_pos positive, memPtr_sub_one_toNat positive⟩
    · refine ⟨s.memPtr, exec_decp_of_not_pos positive, ?_⟩
      bv_omega

end Sys2Proof.Machine
end

section
/-! PROOFS. The constant pushes PUSH16 (R210) and PUSH2 (R211): their encodings, the zero-extended values they push, and
everything their handlers do. -/

namespace Sys2Proof.Machine

/-! ### The encodings of families 8 and 9 -/

theorem decode_of_push16_family {c : Cell} (family : c.r.toNat % 16 = 8) : decode c = .push16 c.imm16 := by
  have hf : c.family = 8 := family
  simp only [decode, hf]

theorem decode_of_push2_family {c : Cell} (family : c.r.toNat % 16 = 9) : decode c = .push2 c.g c.b := by
  have hf : c.family = 9 := family
  simp only [decode, hf]

/-- Green is the high byte of the immediate (R93). -/
theorem imm16_toNat (c : Cell) : c.imm16.toNat = 256 * c.g.toNat + c.b.toNat := by
  have low : c.b.toNat < 2 ^ 8 := c.b.isLt
  calc c.imm16.toNat
      = c.g.toNat <<< 8 ||| c.b.toNat := BitVec.toNat_append c.g c.b
    _ = c.g.toNat <<< 8 + c.b.toNat := (Nat.shiftLeft_add_eq_or_of_lt low _).symm
    _ = 256 * c.g.toNat + c.b.toNat := by rw [Nat.shiftLeft_eq, Nat.mul_comm]

/-- The encoder takes the two bytes of a PUSH16 constant apart again (R100). -/
theorem encode_push16_append (g b : Byte) : encode (.push16 (g ++ b)) = ⟨0x08, g, b⟩ := by
  have high : (g ++ b).extractLsb' 8 8 = g := BitVec.extractLsb'_append_eq_left
  have low : (g ++ b).extractLsb' 0 8 = b := BitVec.extractLsb'_append_eq_right
  change cellOf 8 ((g ++ b).extractLsb' 8 8) ((g ++ b).extractLsb' 0 8) = _
  rw [high, low, cellOf]

/-! ### Constants as values -/

/-- A constant narrower than a word leaves the sign bit of the word 0, so it is never negative (R210, R211). -/
theorem setWidth_toInt_of_lt {w : Nat} (narrower : w < 32) (x : BitVec w) : (x.setWidth 32).toInt = x.toNat := by
  have half : 2 * 2 ^ w ≤ 2 ^ 32 := by
    rw [← Nat.pow_succ']
    exact Nat.pow_le_pow_right Nat.two_pos narrower
  have bound : x.toNat < 2 ^ w := x.isLt
  have kept : (x.setWidth 32).toNat = x.toNat := BitVec.toNat_setWidth_of_le narrower.le
  rw [BitVec.toInt_eq_toNat_of_lt (by omega), kept]

theorem imm16Word_toInt (n : BitVec 16) : (imm16Word n).toInt = n.toNat := setWidth_toInt_of_lt (by decide) n

theorem byteWord_toInt (v : Byte) : (byteWord v).toInt = v.toNat := setWidth_toInt_of_lt (by decide) v

/-! ### The handlers -/

theorem exec_push16 (n : BitVec 16) (s : State) :
    exec (.push16 n) s = .next { s with stack := imm16Word n :: s.stack } := rfl

theorem exec_push2 (g b : Byte) (s : State) :
    exec (.push2 g b) s = .next { s with stack := byteWord b :: byteWord g :: s.stack } := rfl

/-! ### The obligations -/

/-- Settles O33: the operand is the immediate of the cell, and its 16 bits are zero-extended to the pushed word. -/
theorem push16PushesItsConstant : Obligations.Push16PushesItsConstant := by
  refine ⟨fun c family => ?_, encode_push16_append, fun n s => ?_⟩
  · exact ⟨c.imm16, decode_of_push16_family family, imm16_toNat c⟩
  · exact ⟨imm16Word n, exec_push16 n s, imm16Word_toInt n⟩

/-- Settles O34: the handler is two pushes, green's first, and each byte is zero-extended to its word. -/
theorem push2PushesGreenThenBlue : Obligations.Push2PushesGreenThenBlue := by
  refine ⟨fun _ => decode_of_push2_family, fun _ _ => rfl, fun g b s => ?_⟩
  exact ⟨byteWord g, byteWord b, exec_push2 g b s, byteWord_toInt g, byteWord_toInt b⟩

end Sys2Proof.Machine
end

section
/-! PROOFS. The stack operation DROP (R220): its encodings, and everything its handler does. -/

namespace Sys2Proof.Machine

/-! ### The encodings of family 10 -/

/-- The low nibble of red selects the family and the low two bits of blue its instruction; nothing else is read
(R92, R94). -/
theorem decode_of_stack_family {c : Cell} {k : Nat} (family : c.r.toNat % 16 = 10) (subcode : c.b.toNat % 4 = k) :
    decode c = decodeStack k := by
  have hf : c.family = 10 := family
  have hk : c.sub4 = k := subcode
  simp only [decode, hf, hk]

/-! ### The handler -/

/-- Everything DROP does: it pops, and gives up the popped value (R220). -/
theorem exec_drop (s : State) : exec .drop s = .next { s with stack := s.stack.tail } := by
  change execDrop s = _
  rw [execDrop, State.pop_snd]

/-- A pop of an empty stack leaves the state as it is (R23), so DROP does. -/
theorem exec_drop_of_stack_nil {s : State} (empty : s.stack = []) : exec .drop s = .next s := by
  change execDrop s = _
  rw [execDrop, State.pop_of_stack_nil empty]

/-! ### The obligation -/

/-- Settles O35: the handler is one pop, and a pop goes by whether the stack is empty. -/
theorem dropDiscardsTheTop : Obligations.DropDiscardsTheTop := by
  refine ⟨fun _ => decode_of_stack_family, rfl, fun s => ?_⟩
  exact ⟨exec_drop s, exec_drop_of_stack_nil⟩

end Sys2Proof.Machine
end

section
/-! PROOFS. The decoder against the encoder and the opcode table: the round trip (R100), the don't-care bits (R95), the
rows' mask and match columns (R94), and the packed words of the table (R91). -/

namespace Sys2Proof

/-! ### Decoding an encoding -/

/-- The fields of a canonical cell are its operands: only the two halves of an immediate have to be put together. -/
theorem decode_encode (i : Instr) : decode (encode i) = i := by
  cases i with
  | dir d => cases d <;> rfl
  | jmp n => exact congrArg Instr.jmp (imm16_bytes n)
  | jz n => exact congrArg Instr.jz (imm16_bytes n)
  | push16 n => exact congrArg Instr.push16 (imm16_bytes n)
  | _ => rfl

/-! ### The encoding of what a cell decodes to -/

theorem byte_and_zero (x : Byte) : x &&& 0 = 0 := BitVec.and_zero

theorem byte_and_whole (x : Byte) : x &&& 255 = x := BitVec.and_allOnes

/-- A cell's canonical encoding keeps the family in red and, of green and blue, the bits that the instruction reads;
this is how the encoding is the cell under its care mask. -/
theorem word24_encode_of_masks {c : Cell} {i : Instr} {mg mb : Byte} (mask : careMask i = Cell.word24 ⟨0x0F, mg, mb⟩)
    (enc : encode i = ⟨BitVec.ofNat 8 c.family, c.g &&& mg, c.b &&& mb⟩) :
    (encode i).word24 = c.word24 &&& careMask i := by
  obtain ⟨family, -⟩ := byte_and_masks c.r
  rw [mask, Cell.word24_and, enc, Cell.family, family]

/-- An instruction that reads nothing but its family. -/
theorem word24_encode_of_no_operand {c : Cell} {i : Instr} (mask : careMask i = 0x0F0000#24)
    (enc : encode i = ⟨BitVec.ofNat 8 c.family, 0, 0⟩) : (encode i).word24 = c.word24 &&& careMask i :=
  word24_encode_of_masks (mg := 0) (mb := 0) mask (by rw [enc, byte_and_zero, byte_and_zero])

/-- An instruction whose operand is the whole of green and blue. -/
theorem word24_encode_of_two_bytes {c : Cell} {i : Instr} (select : selectMask i = 0x0F0000#24)
    (operand : operandMask i = 0x00FFFF#24) (enc : encode i = ⟨BitVec.ofNat 8 c.family, c.g, c.b⟩) :
    (encode i).word24 = c.word24 &&& careMask i := by
  have mask : careMask i = Cell.word24 ⟨0x0F, 255, 255⟩ := by
    rw [careMask, select, operand]
    decide
  exact word24_encode_of_masks mask (by rw [enc, byte_and_whole, byte_and_whole])

/-- An instruction with a selector or an operand of two bits in blue. -/
theorem word24_encode_of_sub4 {c : Cell} {i : Instr} (mask : careMask i = 0x0F0003#24)
    (enc : encode i = ⟨BitVec.ofNat 8 c.family, 0, BitVec.ofNat 8 c.sub4⟩) :
    (encode i).word24 = c.word24 &&& careMask i := by
  refine word24_encode_of_masks (mg := 0) (mb := 3) mask ?_
  obtain ⟨-, low, -⟩ := byte_and_masks c.b
  rw [enc, byte_and_zero, low, Cell.sub4]

/-- An instruction with a selector of three bits in blue. -/
theorem word24_encode_of_sub8 {c : Cell} {i : Instr} (mask : careMask i = 0x0F0007#24)
    (enc : encode i = ⟨BitVec.ofNat 8 c.family, 0, BitVec.ofNat 8 c.sub8⟩) :
    (encode i).word24 = c.word24 &&& careMask i := by
  refine word24_encode_of_masks (mg := 0) (mb := 7) mask ?_
  obtain ⟨-, -, low, -⟩ := byte_and_masks c.b
  rw [enc, byte_and_zero, low, Cell.sub8]

/-- An instruction with a selector of five bits in blue. -/
theorem word24_encode_of_sub32 {c : Cell} {i : Instr} (mask : careMask i = 0x0F001F#24)
    (enc : encode i = ⟨BitVec.ofNat 8 c.family, 0, BitVec.ofNat 8 c.sub32⟩) :
    (encode i).word24 = c.word24 &&& careMask i := by
  refine word24_encode_of_masks (mg := 0) (mb := 31) mask ?_
  obtain ⟨-, -, -, low, -⟩ := byte_and_masks c.b
  rw [enc, byte_and_zero, low, Cell.sub32]

theorem encode_dir_ofCode : ∀ k < 4, careMask (.dir (Dir.ofCode k)) = 0x0F0003#24 ∧
    encode (.dir (Dir.ofCode k)) = ⟨1, 0, BitVec.ofNat 8 k⟩ := by decide

theorem encode_decodeTranslocate : ∀ k < 4, careMask (decodeTranslocate k) = 0x0F0003#24 ∧
    encode (decodeTranslocate k) = ⟨4, 0, BitVec.ofNat 8 k⟩ := by decide

theorem encode_decodeMemory : ∀ k < 8, careMask (decodeMemory k) = 0x0F0007#24 ∧
    encode (decodeMemory k) = ⟨5, 0, BitVec.ofNat 8 k⟩ := by decide

theorem encode_decodeStack : ∀ k < 4, careMask (decodeStack k) = 0x0F0003#24 ∧
    encode (decodeStack k) = ⟨10, 0, BitVec.ofNat 8 k⟩ := by decide

theorem encode_aluNumbering : ∀ k < 32, careMask (aluNumbering k) = 0x0F001F#24 ∧
    encode (aluNumbering k) = ⟨11, 0, BitVec.ofNat 8 k⟩ := by decide

theorem encode_decodeInputOutput : ∀ k < 4, careMask (decodeInputOutput k) = 0x0F0003#24 ∧
    encode (decodeInputOutput k) = ⟨12, 0, BitVec.ofNat 8 k⟩ := by decide

/-- The encoder takes an immediate apart into the bytes the decoder read it from. -/
theorem imm16_extract (c : Cell) : c.imm16.extractLsb' 8 8 = c.g ∧ c.imm16.extractLsb' 0 8 = c.b :=
  ⟨BitVec.extractLsb'_append_eq_left, BitVec.extractLsb'_append_eq_right⟩

/-- Encoding what a cell decodes to clears the cell's don't-care bits: family by family, the encoding keeps the selector
and the operand (R95, R100). -/
theorem word24_encode_decode (c : Cell) : (encode (decode c)).word24 = c.word24 &&& careMask (decode c) := by
  have sub4_lt : c.sub4 < 4 := Nat.mod_lt _ (by decide)
  have sub8_lt : c.sub8 < 8 := Nat.mod_lt _ (by decide)
  have sub32_lt : c.sub32 < 32 := Nat.mod_lt _ (by decide)
  obtain ⟨green, blue⟩ := imm16_extract c
  have family_lt := c.family_lt
  unfold decode
  split
  case h_1 hf | h_7 hf | h_8 hf | h_14 hf | h_15 hf => exact word24_encode_of_no_operand rfl (by rw [hf]; rfl)
  case h_2 hf =>
    obtain ⟨mask, enc⟩ := encode_dir_ofCode _ sub4_lt
    exact word24_encode_of_sub4 mask (by rw [hf]; exact enc)
  case h_3 hf | h_4 hf | h_9 hf =>
    exact word24_encode_of_two_bytes rfl rfl (by simp only [hf, encode, cellOf, green, blue]; rfl)
  case h_5 hf =>
    obtain ⟨mask, enc⟩ := encode_decodeTranslocate _ sub4_lt
    exact word24_encode_of_sub4 mask (by rw [hf]; exact enc)
  case h_6 hf =>
    obtain ⟨mask, enc⟩ := encode_decodeMemory _ sub8_lt
    exact word24_encode_of_sub8 mask (by rw [hf]; exact enc)
  case h_10 hf => exact word24_encode_of_two_bytes rfl rfl (by rw [hf]; rfl)
  case h_11 hf =>
    obtain ⟨mask, enc⟩ := encode_decodeStack _ sub4_lt
    exact word24_encode_of_sub4 mask (by rw [hf]; exact enc)
  case h_12 hf =>
    obtain ⟨mask, enc⟩ := encode_aluNumbering _ sub32_lt
    exact word24_encode_of_sub32 mask (by rw [hf]; exact enc)
  case h_13 hf =>
    obtain ⟨mask, enc⟩ := encode_decodeInputOutput _ sub4_lt
    exact word24_encode_of_sub4 mask (by rw [hf]; exact enc)
  case h_16 =>
    have hf : c.family = 15 := by
      simp only [imp_false] at *
      omega
    exact word24_encode_of_no_operand rfl (by rw [hf]; rfl)

/-! ### Masks by family -/

/-- The selecting bits of a family's rows (R95). -/
def familySelectMask : Nat → BitVec 24
  | 4 | 10 | 12 => 0x0F0003
  | 5 => 0x0F0007
  | 11 => 0x0F001F
  | _ => 0x0F0000

/-- The operand bits of a family's rows (R95). -/
def familyOperandMask : Nat → BitVec 24
  | 1 => 0x000003
  | 2 | 3 | 8 | 9 => 0x00FFFF
  | _ => 0

/-- Which bits select an instruction depends on its family alone (R95). -/
theorem selectMask_eq (i : Instr) : selectMask i = familySelectMask (encode i).family := by
  cases i <;> rfl

/-- And so does which bits are its operand (R95). -/
theorem operandMask_eq (i : Instr) : operandMask i = familyOperandMask (encode i).family := by
  cases i <;> rfl

/-- The family's bits in red are selecting bits of every family, and operand bits of none (R92, R95). -/
theorem familyMasks_red : ∀ f < 16, (Cell.ofWord24 (familySelectMask f)).r = 0x0F ∧
    (Cell.ofWord24 (familySelectMask f ||| familyOperandMask f)).r = 0x0F := by decide

theorem selectMask_red (i : Instr) : (Cell.ofWord24 (selectMask i)).r = 0x0F := by
  rw [selectMask_eq]
  exact (familyMasks_red _ (Cell.family_lt _)).1

theorem careMask_red (i : Instr) : (Cell.ofWord24 (careMask i)).r = 0x0F := by
  rw [careMask, selectMask_eq, operandMask_eq]
  exact (familyMasks_red _ (Cell.family_lt _)).2

/-- Both masks hold the family's four bits, so cells that agree under one of them are of one family (R92). -/
theorem family_eq_of_and_eq {c d : Cell} {m : BitVec 24} (red : (Cell.ofWord24 m).r = 0x0F)
    (h : d.word24 &&& m = c.word24 &&& m) : d.family = c.family := by
  obtain ⟨same, -, -⟩ := (Cell.and_mask_eq_iff d c m).mp h
  have low : ∀ x : Byte, (x &&& 0x0F).toNat = x.toNat % 16 := by decide
  rw [red] at same
  rw [Cell.family, Cell.family, ← low, ← low, same]

theorem careMask_eq_of_family_eq {i j : Instr} (h : (encode i).family = (encode j).family) :
    careMask i = careMask j := by
  rw [careMask, careMask, selectMask_eq i, operandMask_eq i, selectMask_eq j, operandMask_eq j, h]

theorem and_careMask_and_careMask (w : BitVec 24) (i : Instr) : w &&& careMask i &&& careMask i = w &&& careMask i := by
  rw [BitVec.and_assoc, BitVec.and_self]

/-- The selecting bits are among those the instruction reads (R95). -/
theorem and_careMask_and_selectMask (w : BitVec 24) (i : Instr) :
    w &&& careMask i &&& selectMask i = w &&& selectMask i := by
  have absorbed : careMask i &&& selectMask i = selectMask i := by
    rw [careMask]
    ext k hk
    simp only [BitVec.getElem_and, BitVec.getElem_or]
    cases (selectMask i)[k] <;> simp
  rw [BitVec.and_assoc, absorbed]

theorem encode_decode_family (c : Cell) : (encode (decode c)).family = c.family := by
  refine family_eq_of_and_eq (careMask_red (decode c)) ?_
  rw [word24_encode_decode, and_careMask_and_careMask]

/-! ### Cells that agree outside the don't-care bits -/

/-- Agreeing cells are of one family, so they have the same care mask, under which they have one canonical encoding. -/
theorem decode_eq_of_and_careMask_eq {c d : Cell}
    (h : d.word24 &&& careMask (decode c) = c.word24 &&& careMask (decode c)) :
    decode d = decode c := by
  have same_family : d.family = c.family := family_eq_of_and_eq (careMask_red (decode c)) h
  have same_mask : careMask (decode d) = careMask (decode c) :=
    careMask_eq_of_family_eq (by rw [encode_decode_family, encode_decode_family, same_family])
  have same_encoding : encode (decode d) = encode (decode c) := Cell.word24_inj (by
    rw [word24_encode_decode, word24_encode_decode, same_mask, h])
  rw [← decode_encode (decode d), same_encoding, decode_encode]

/-! ### Rows of the opcode table -/

/-- The `match` column is what the canonical encoding holds in the selecting bits (R100). -/
theorem encode_and_selectMask (i : Instr) : (encode i).word24 &&& selectMask i = tableMatch i := by
  change Laws.EncodesItsRow.Statement i
  cases i with
  | dir d => exact Laws.EncodesItsRow.dir d
  | jmp n => exact Laws.EncodesItsRow.jmp n
  | jz n => exact Laws.EncodesItsRow.jz n
  | push16 n => exact Laws.EncodesItsRow.push16 n
  | push2 g b => exact Laws.EncodesItsRow.push2 g b
  | _ => rfl

theorem and_selectMask_decode (c : Cell) : c.word24 &&& selectMask (decode c) = tableMatch (decode c) := by
  rw [← encode_and_selectMask, word24_encode_decode, and_careMask_and_selectMask]

/-- A row that matches a cell is of the cell's family, so it has the mask of the row the cell decodes to, and then the
match column agrees as well. -/
theorem row_eq_of_matches {c : Cell} {i : Instr} (h : c.word24 &&& selectMask i = tableMatch i) :
    selectMask i = selectMask (decode c) ∧ tableMatch i = tableMatch (decode c) := by
  have same_family : c.family = (encode i).family :=
    family_eq_of_and_eq (selectMask_red i) (by rw [h, encode_and_selectMask])
  have same_mask : selectMask i = selectMask (decode c) := by
    rw [selectMask_eq i, selectMask_eq (decode c), encode_decode_family, same_family]
  exact ⟨same_mask, by rw [← h, same_mask, and_selectMask_decode]⟩

theorem encode_and_careMask (i : Instr) : (encode i).word24 &&& careMask i = (encode i).word24 := by
  have h := word24_encode_decode (encode i)
  rw [decode_encode] at h
  exact h.symm

/-! ### Words of the opcode table -/

/-- The cell of a packed word has the word's bytes as its channels, red uppermost (R91). -/
theorem Cell.ofWord24_ofNat (w : Nat) : Cell.ofWord24 (BitVec.ofNat 24 w) =
    ⟨BitVec.ofNat 8 (w / 65536), BitVec.ofNat 8 (w / 256), BitVec.ofNat 8 w⟩ := by
  have channel : ∀ k, k + 8 ≤ 24 → (BitVec.ofNat 24 w).extractLsb' k 8 = BitVec.ofNat 8 (w / 2 ^ k) := by
    intro k hk
    refine BitVec.eq_of_getLsbD_eq fun j hj => ?_
    have below : k + j < 24 := by omega
    rw [BitVec.getLsbD_extractLsb', BitVec.getLsbD_ofNat, BitVec.getLsbD_ofNat, Nat.testBit_div_two_pow, Nat.add_comm j]
    simp [hj, below]
  rw [Cell.ofWord24, channel 16 (by omega), channel 8 (by omega), channel 0 (by omega), Nat.pow_zero, Nat.div_one]
  rfl

/-- What the table reader makes of a word that has no bit beyond the table's width (R91). -/
theorem decodeTableWord_of_lt {nbits w : Nat} (h : w < 2 ^ nbits) : decodeTableWord nbits w =
    if w < 2 ^ 24 then some (decode (Cell.ofWord24 (BitVec.ofNat 24 w))) else none := by
  simp only [decodeTableWord, Nat.mod_eq_of_lt h]

/-! ### The obligations -/

/-- Settles O1: instruction by instruction. -/
theorem decodeInvertsEncode : Obligations.DecodeInvertsEncode := decode_encode

/-- Settles O2: family by family. -/
theorem encodeOfDecodeClearsDontCareBits : Obligations.EncodeOfDecodeClearsDontCareBits := word24_encode_decode

/-- Settles O3: such cells have the same canonical encoding (O2), which decodes to only one instruction (O1). -/
theorem decodeIgnoresDontCareBits : Obligations.DecodeIgnoresDontCareBits :=
  fun _ _ => decode_eq_of_and_careMask_eq

/-- Settles O4: a cell holds in its selecting bits what its canonical encoding holds there, and a matching row is of its
family. -/
theorem eachCellMatchesExactlyItsRow : Obligations.EachCellMatchesExactlyItsRow :=
  ⟨fun c => ⟨and_selectMask_decode c, fun _ => row_eq_of_matches⟩,
    fun i => ⟨encode_and_selectMask i, encode_and_careMask i⟩⟩

/-- Settles O5: the decoder evaluated on each sample. -/
theorem sampleWordsDecode : Obligations.SampleWordsDecode := by
  unfold Obligations.SampleWordsDecode
  decide

/-- Settles O6: below `2^24` the word is a cell, whose channels are the word's bytes; from there on it is none. -/
theorem tableWordIsThePackedCell : Obligations.TableWordIsThePackedCell := by
  intro w
  refine ⟨fun fits => ?_, fun nbits large bounded => ?_⟩
  · rw [decodeTableWord_of_lt fits, if_pos fits, Cell.ofWord24_ofNat]
  · rw [decodeTableWord_of_lt bounded, if_neg (Nat.not_lt.mpr large)]

end Sys2Proof
end

section
/-! PROOFS. The parts of a step around the handler: what FETCH reads (R132), what ADVANCE and the HALT TEST leave
(R135, R136), what the report says (R137), and the load of an instruction where the next step fetches. -/

namespace Sys2Proof.Machine

/-! ### Advance and halt test, field by field -/

section
variable (n : Nat) (s : State)

@[simp] theorem State.move_stack : (s.move n).stack = s.stack := rfl
@[simp] theorem State.move_mem : (s.move n).mem = s.mem := rfl
@[simp] theorem State.move_memPtr : (s.move n).memPtr = s.memPtr := rfl
@[simp] theorem State.move_callStack : (s.move n).callStack = s.callStack := rfl
@[simp] theorem State.move_dir : (s.move n).dir = s.dir := rfl
@[simp] theorem State.move_halted : (s.move n).halted = s.halted := rfl
@[simp] theorem State.move_grid : (s.move n).grid = s.grid := rfl
@[simp] theorem State.move_output : (s.move n).output = s.output := rfl

@[simp] theorem State.haltTest_stack : s.haltTest.stack = s.stack := by rw [State.haltTest_eq]
@[simp] theorem State.haltTest_mem : s.haltTest.mem = s.mem := by rw [State.haltTest_eq]
@[simp] theorem State.haltTest_memPtr : s.haltTest.memPtr = s.memPtr := by rw [State.haltTest_eq]
@[simp] theorem State.haltTest_callStack : s.haltTest.callStack = s.callStack := by rw [State.haltTest_eq]
@[simp] theorem State.haltTest_ipX : s.haltTest.ipX = s.ipX := by rw [State.haltTest_eq]
@[simp] theorem State.haltTest_ipY : s.haltTest.ipY = s.ipY := by rw [State.haltTest_eq]
@[simp] theorem State.haltTest_dir : s.haltTest.dir = s.dir := by rw [State.haltTest_eq]
@[simp] theorem State.haltTest_halted : s.haltTest.halted = (s.halted || !s.ipInGrid) := by rw [State.haltTest_eq]
@[simp] theorem State.haltTest_grid : s.haltTest.grid = s.grid := by rw [State.haltTest_eq]
@[simp] theorem State.haltTest_output : s.haltTest.output = s.output := by rw [State.haltTest_eq]

end

/-- The halt test moves nothing, so it does not change the answer of the next one. -/
@[simp] theorem State.haltTest_ipInGrid (s : State) : s.haltTest.ipInGrid = s.ipInGrid := by
  simp only [State.ipInGrid, State.haltTest_grid, State.haltTest_ipX, State.haltTest_ipY]

/-- The advance of a step: one cell (R135). -/
theorem State.move_one (s : State) :
    s.move 1 = { s with ipX := s.ipX + unitX s.dir, ipY := s.ipY + unitY s.dir } := by
  simp [State.move_eq]

theorem State.ipInGrid_of_grid {s : State} {g : Grid} (h : s.grid = some g) : s.ipInGrid = g.inGrid s.ipX s.ipY := by
  simp only [State.ipInGrid, h]

theorem Grid.inGrid_iff (g : Grid) (x y : Word) : g.inGrid x y = true ↔
    0 ≤ x.toInt ∧ x.toInt < g.width ∧ 0 ≤ y.toInt ∧ y.toInt < g.height := by
  simp only [Grid.inGrid, Bool.and_eq_true, decide_eq_true_eq, and_assoc]

/-! ### The report -/

theorem report_of_running {s : State} (h : s.halted = false) : report s = .stepTaken := by
  simp [report, h]

/-! ### Fetch -/

theorem fetch_of_inGrid {s : State} {g : Grid} (grid : s.grid = some g) (wf : g.wellFormed = true)
    (inside : g.inGrid s.ipX s.ipY = true) :
    ∃ c, g.cells[g.index s.ipX s.ipY]? = some c ∧ fetch s = .next c := by
  obtain ⟨c, hc, listed⟩ := Grid.cellAt_of_inGrid wf inside
  exact ⟨c, listed, by simp [fetch, grid, wf, hc]⟩

/-- In the grid both coordinates are non-negative, so a cell's place is the same counted with or without signs. -/
theorem Grid.index_eq_toInt {g : Grid} {x y : Word} (h : g.inGrid x y = true) :
    g.index x y = (y.toInt * g.width + x.toInt).toNat := by
  obtain ⟨hx, -, hy, -⟩ := (Grid.inGrid_iff g x y).mp h
  have ex : x.toInt = x.toNat := BitVec.toInt_eq_toNat_of_msb (by simpa [BitVec.msb_eq_toInt] using hx)
  have ey : y.toInt = y.toNat := BitVec.toInt_eq_toNat_of_msb (by simpa [BitVec.msb_eq_toInt] using hy)
  rw [Grid.index, ex, ey]
  norm_cast

/-! ### Loading a cell -/

theorem Grid.withCell_wellFormed (g : Grid) (x y : Word) (c : Cell) : (g.withCell x y c).wellFormed = g.wellFormed := by
  have length : (g.withCell x y c).cells.length = g.cells.length := List.length_set
  have cellsOk : (g.withCell x y c).cellsOk = g.cellsOk := by
    rw [Grid.cellsOk, Grid.cellsOk, decide_eq_decide, length]
    rfl
  rw [Grid.wellFormed, cellsOk]
  rfl

theorem Grid.cellAt_withCell {g : Grid} {x y : Word} (c : Cell) (wf : g.wellFormed = true)
    (inside : g.inGrid x y = true) : (g.withCell x y c).cellAt x y = some c := by
  obtain ⟨old, -, listed⟩ := Grid.cellAt_of_inGrid wf inside
  have bound : g.index x y < g.cells.length := (List.getElem?_eq_some_iff.mp listed).1
  have inside' : (g.withCell x y c).inGrid x y = true := inside
  have same_index : (g.withCell x y c).index x y = g.index x y := rfl
  rw [Grid.cellAt, if_pos inside', same_index, Grid.withCell, List.getElem?_set_self bound]

/-- Where `withFetchWord` puts its cell is where the next step of the state it leaves fetches. -/
theorem fetch_withFetchWord (s : State) (nbits w : Nat) :
    fetch (s.withFetchWord nbits w) = .next (Cell.ofWord24 (BitVec.ofNat 24 (w % 2 ^ nbits))) := by
  unfold State.withFetchWord
  split
  next g hg =>
    split
    next ok =>
      obtain ⟨wf, inside⟩ := Bool.and_eq_true_iff.mp ok
      simp only [fetch, Grid.withCell_wellFormed, wf, if_true, Grid.cellAt_withCell _ wf inside]
    next => rfl
  next => rfl

/-- A load touches the halted flag, the ip and the grid only. -/
theorem withFetchWord_eq (s : State) (nbits w : Nat) : ∃ x y g,
    s.withFetchWord nbits w = { s with halted := false, ipX := x, ipY := y, grid := g } := by
  unfold State.withFetchWord
  split
  next g hg => split <;> exact ⟨_, _, _, rfl⟩
  next => exact ⟨_, _, _, rfl⟩

theorem decode_of_decodeTableWord {nbits w : Nat} {i : Instr} (h : decodeTableWord nbits w = some i) :
    decode (Cell.ofWord24 (BitVec.ofNat 24 (w % 2 ^ nbits))) = i := by
  simp only [decodeTableWord] at h
  split at h
  next => exact Option.some.inj h
  next => cases h

/-! ### The obligations -/

/-- Settles O7: EXECUTE, ADVANCE and HALT TEST follow a fetch that succeeds. -/
theorem stepRunsTheDecodedInstruction : Obligations.StepRunsTheDecodedInstruction := by
  intro s t c running fetched executed
  exact ⟨step_of_executes ⟨running, c, fetched, rfl⟩ executed, report_of_running running⟩

/-- Settles O8: the load puts the cell where the next fetch looks and clears the halted flag. -/
theorem loadedWordIsExecutedNext : Obligations.LoadedWordIsExecutedNext := by
  intro s nbits w i word
  obtain ⟨x, y, g, loaded⟩ := withFetchWord_eq s nbits w
  refine ⟨⟨?_, _, fetch_withFetchWord s nbits w, decode_of_decodeTableWord word⟩, ?_⟩
  · rw [loaded]
  · rw [loaded]
    exact ⟨rfl, rfl, rfl, rfl, rfl, rfl⟩

/-- Settles O10: the report reads the halted flag and nothing else. -/
theorem reportSaysWhetherAStepWasTaken : Obligations.ReportSaysWhetherAStepWasTaken := by
  intro s
  cases halted : s.halted with
  | false => simp [report_of_running halted]
  | true => simp [report_of_halted halted]

/-- Settles O12: an in-grid position has a cell in the row-by-row list. -/
theorem fetchReadsTheCellAtTheIp : Obligations.FetchReadsTheCellAtTheIp := by
  intro s g grid wf inside
  rw [← Grid.index_eq_toInt inside]
  exact fetch_of_inGrid grid wf inside

end Sys2Proof.Machine
end

section
/-! PROOFS. DIR (R150), the operands of the jumps (R151, R152), and the transfers IJMP, CALL and RET (R170 to R172):
their handlers, and the cell their step ends on (R174). -/

namespace Sys2Proof.Machine

/-! ### The encodings of families 1, 2 and 3 -/

theorem decode_of_dir_family {c : Cell} (family : c.r.toNat % 16 = 1) : decode c = .dir (Dir.ofCode c.sub4) := by
  have hf : c.family = 1 := family
  simp only [decode, hf]

theorem decode_of_jmp_family {c : Cell} (family : c.r.toNat % 16 = 2) : decode c = .jmp c.imm16 := by
  have hf : c.family = 2 := family
  simp only [decode, hf]

theorem decode_of_jz_family {c : Cell} (family : c.r.toNat % 16 = 3) : decode c = .jz c.imm16 := by
  have hf : c.family = 3 := family
  simp only [decode, hf]

theorem code_ofCode : ∀ k < 4, (Dir.ofCode k).code.toNat = k := by decide

/-! ### The handlers -/

theorem exec_dir (d : Dir) (s : State) : exec (.dir d) s = .next { s with dir := d } := rfl

theorem exec_ijmp (s : State) : exec .ijmp s = .next { s with stack := s.belowTwo, ipX := s.second, ipY := s.top } :=
  congrArg Host.Outcome.next (indirectJump_eq s)

/-- CALL's frame is pushed before the target is popped, and the two stacks do not meet (R171). -/
theorem exec_call (s : State) : exec .call s = .next
    { s with stack := s.belowTwo, callStack := ⟨s.ipX, s.ipY, s.dir⟩ :: s.callStack, ipX := s.second, ipY := s.top } :=
  congrArg Host.Outcome.next (indirectJump_eq (s.framePush s.ipX s.ipY s.dir))

theorem exec_ret (s : State) : exec .ret s = .next
    { s with callStack := s.callStack.tail, ipX := s.topFrame.x, ipY := s.topFrame.y, dir := s.topFrame.d } := by
  change execRet s = _
  simp only [execRet, State.framePop_eq, State.setIp, State.setDir]

/-- The end of every step, with the advance written out. -/
theorem step_of_executes_moved {s t : State} {i : Instr} (h : Executes s i) (he : exec i s = .next t) :
    step s = .next (State.haltTest { t with ipX := t.ipX + unitX t.dir, ipY := t.ipY + unitY t.dir }) := by
  rw [step_of_executes h he, State.move_one]

/-! ### The obligations -/

/-- Settles O22: the handler sets the direction, and the advance reads it after that. -/
theorem dirTurnsInTheSameStep : Obligations.DirTurnsInTheSameStep := by
  refine ⟨fun c family => ?_, fun d s => ⟨exec_dir d s, fun executes => ?_⟩⟩
  · exact ⟨_, decode_of_dir_family family, code_ofCode _ (Nat.mod_lt _ (by decide))⟩
  · exact step_of_executes_moved executes (exec_dir d s)

/-- Settles O23: both handlers move by the immediate, which as a word is its own zero extension. -/
theorem jumpsDisplaceTheIp : Obligations.JumpsDisplaceTheIp := by
  refine ⟨fun c family => ⟨_, decode_of_jmp_family family, imm16_toNat c⟩,
    fun c family => ⟨_, decode_of_jz_family family, imm16_toNat c⟩, fun n s => ?_⟩
  have displacement : BitVec.ofNat 32 n.toNat = n.setWidth 32 := BitVec.ofNat_toNat 32 n
  refine ⟨?_, fun zero => ?_, fun nonzero => ?_⟩
  · rw [exec_jmp, State.move_eq, displacement]
  · rw [exec_jz_of_top_eq_zero zero, State.move_eq, displacement]
  · rw [exec_jz, if_neg nonzero]

/-- Settles O25: the three handlers. -/
theorem transfersSetTheIpAndFrames : Obligations.TransfersSetTheIpAndFrames :=
  fun s => ⟨exec_ijmp s, exec_call s, exec_ret s⟩

/-- Settles O26: the advance of the step goes on from the position and the direction the handler left. -/
theorem transfersLandOneCellBeyond : Obligations.TransfersLandOneCellBeyond :=
  fun s => ⟨fun executes => step_of_executes_moved executes (exec_ijmp s),
    fun executes => step_of_executes_moved executes (exec_call s),
    fun executes => step_of_executes_moved executes (exec_ret s)⟩

end Sys2Proof.Machine
end

section
/-! PROOFS. The canonical form of the tape: equal sequences of words are equal data. And INCP (R194), which stays at the
largest pointer. -/

namespace Sys2Proof.Machine

/-! ### The listed words -/

/-- A list of rising indices lists one word for an index at most, so finding is membership. -/
theorem findCell_eq_some_iff {cells : List (Nat × Word)} (sorted : cells.Pairwise (fun c d => c.1 < d.1)) (a : Nat)
    (w : Word) : findCell cells a = some w ↔ (a, w) ∈ cells := by
  induction cells with
  | nil => simp [findCell]
  | cons c rest ih =>
    obtain ⟨b, v⟩ := c
    obtain ⟨above, sorted_rest⟩ := List.pairwise_cons.mp sorted
    by_cases hab : a = b
    · subst hab
      have not_later : (a, w) ∉ rest := fun h => Nat.lt_irrefl a (above (a, w) h)
      simp [findCell, not_later, eq_comm]
    · simp [findCell, hab, ih sorted_rest]

/-- In the canonical form an index is listed with exactly the words that differ from what it reads as unlisted. -/
theorem Memory.mem_cells_iff {m : Memory} (h : m.wf) (a : Nat) (w : Word) :
    (a, w) ∈ m.cells ↔ m.word a = w ∧ w ≠ Memory.unlisted a := by
  obtain ⟨-, listed, sorted⟩ := h
  rw [← findCell_eq_some_iff sorted, Memory.word]
  cases hf : findCell m.cells a with
  | none =>
    simp only [reduceCtorEq, Option.getD_none, false_iff]
    rintro ⟨rfl, ne⟩
    exact ne rfl
  | some v =>
    have ne : v ≠ Memory.unlisted a := (listed (a, v) ((findCell_eq_some_iff sorted a v).mp hf)).2
    simp only [Option.some.injEq, Option.getD_some]
    exact ⟨fun e => ⟨e, e ▸ ne⟩, And.left⟩

/-- Lists of rising indices with the same entries are the same list. -/
theorem eq_of_sorted_of_mem_iff {l l' : List (Nat × Word)} (sorted : l.Pairwise (fun c d => c.1 < d.1))
    (sorted' : l'.Pairwise (fun c d => c.1 < d.1)) (same : ∀ c, c ∈ l ↔ c ∈ l') : l = l' := by
  have nodup : ∀ k : List (Nat × Word), k.Pairwise (fun c d => c.1 < d.1) → k.Nodup := fun k hk =>
    List.Pairwise.imp (fun {c d} (lt : c.1 < d.1) (e : c = d) => Nat.lt_irrefl d.1 (e ▸ lt)) hk
  have perm : l.Perm l' := (List.perm_ext_iff_of_nodup (nodup l sorted) (nodup l' sorted')).mpr same
  exact perm.eq_of_pairwise (fun _ _ _ _ lt gt => absurd lt (Nat.lt_asymm gt)) sorted sorted'

theorem Memory.eq_of_toList_eq {m m' : Memory} (h : m.wf) (h' : m'.wf) (e : m.toList = m'.toList) : m = m' := by
  have same_len : m.len = m'.len := by rw [← m.toList_length, ← m'.toList_length, e]
  have same_word : ∀ a, m.word a = m'.word a := by
    intro a
    by_cases inside : a < m.len
    · have entry : m.toList[a]? = m'.toList[a]? := by rw [e]
      rw [Memory.toList_get?, Memory.toList_get?, if_pos inside, if_pos (same_len ▸ inside)] at entry
      exact Option.some.inj entry
    · rw [Memory.word_of_len_le h (by omega), Memory.word_of_len_le h' (by omega)]
  obtain ⟨-, -, sorted⟩ := id h
  obtain ⟨-, -, sorted'⟩ := id h'
  have same_cells : m.cells = m'.cells := eq_of_sorted_of_mem_iff sorted sorted' fun (a, w) => by
    rw [Memory.mem_cells_iff h, Memory.mem_cells_iff h', same_word]
  cases m
  cases m'
  exact Memory.mk.injEq .. ▸ ⟨same_len, same_cells⟩

/-! ### INCP -/

/-- The pointer INCP leaves: one more, and at the maximum the same (R194, D14). -/
def succPtr (p : MemPtr) : MemPtr := if p < memPtrMax then p + 1 else memPtrMax

theorem exec_incp (s : State) : exec .incp s =
    .next { s with memPtr := succPtr s.memPtr, mem := s.mem.extend (succPtr s.memPtr).toNat } := rfl

theorem succPtr_toNat (p : MemPtr) : (succPtr p).toNat = min (p.toNat + 1) (2 ^ 31 - 1) := by
  have largest : memPtrMax.toNat = 2 ^ 31 - 1 := rfl
  have bound : p.toNat < 2 ^ 31 := p.isLt
  unfold succPtr
  split
  next below =>
    have below' : p.toNat < memPtrMax.toNat := below
    have one : (1 : MemPtr).toNat = 1 := rfl
    rw [BitVec.toNat_add, one]
    omega
  next not_below =>
    have not_below' : ¬ p.toNat < memPtrMax.toNat := not_below
    omega

/-! ### The obligations -/

/-- Settles O21: equal sequences have equal lengths and words, and in the canonical form these decide what is listed. -/
theorem tapesWithEqualWordsAreEqual : Obligations.TapesWithEqualWordsAreEqual :=
  fun _ _ => Memory.eq_of_toList_eq

/-- Settles O32: the handler moves to the successor pointer, which stays at the maximum, and extends the tape to it. -/
theorem incpRaisesThePointerAndSaturates : Obligations.IncpRaisesThePointerAndSaturates := by
  intro s wf
  exact ⟨succPtr s.memPtr, s.mem.extend (succPtr s.memPtr).toNat, exec_incp s, succPtr_toNat s.memPtr,
    Memory.extend_toList wf _⟩

end Sys2Proof.Machine
end

section
/-! PROOFS. The stack operations DUP, SWAP and DUP2 (R221 to R223): everything their handlers do. -/

namespace Sys2Proof.Machine

theorem exec_dup (s : State) : exec .dup s = .next { s with stack := s.top :: s.top :: s.stack.tail } := by
  change execDup s = _
  simp only [execDup, State.pop_eq, State.push]

theorem exec_swap (s : State) : exec .swap s = .next { s with stack := s.second :: s.top :: s.belowTwo } := by
  change Host.Outcome.next ((s.pop.2.pop.2.push s.pop.1).push s.pop.2.pop.1) = _
  rw [State.pop_twice, State.pop_fst]
  rfl

theorem exec_dup2 (s : State) : exec .dup2 s =
    .next { s with stack := s.second :: s.top :: s.second :: s.top :: s.belowTwo } := by
  change Host.Outcome.next (pushPairTwice .xyxy s.pop.1 s.pop.2.pop.1 s.pop.2.pop.2) = _
  rw [State.pop_twice, State.pop_fst]
  rfl

/-- Settles O36: the two handlers. -/
theorem dupAndSwapFollowTheirSequences : Obligations.DupAndSwapFollowTheirSequences :=
  fun s => ⟨exec_dup s, exec_swap s⟩

/-- Settles O37: the handler of DUP2. -/
theorem dup2LeavesThePairReversedTwice : Obligations.Dup2LeavesThePairReversedTwice := exec_dup2

end Sys2Proof.Machine
end

section
/-! PROOFS. The arithmetic and logical unit, family 11: the integer laws as operations on words (R243 to R264), and
everything its handlers do to the stack (R240, R241, R265, R276). -/

namespace Sys2Proof.Machine

/-! ### Wrapping -/

theorem s32_toInt (x : Word) : s32 x.toInt = x := BitVec.ofInt_toInt

theorem s32_sub (v w : Int) : s32 (v - w) = s32 v - s32 w := by
  rw [s32, s32, s32, Int.sub_eq_add_neg, BitVec.ofInt_add, BitVec.ofInt_neg, BitVec.sub_eq_add_neg]

@[simp] theorem narrow_wrap (v : Int) : narrow .wrap v = s32 v := rfl

/-! ### Sum, difference and product (R244 to R246) -/

theorem addWord_wrap (x y : Word) : addWord .wrap x y = x + y := by
  rw [addWord, narrow_wrap, s32, BitVec.ofInt_add, BitVec.ofInt_toInt, BitVec.ofInt_toInt]

theorem subWord_wrap (x y : Word) : subWord .wrap x y = x - y := by
  rw [subWord, narrow_wrap, s32_sub, s32_toInt, s32_toInt]

theorem mulWord_wrap (x y : Word) : mulWord .wrap x y = x * y := by
  rw [mulWord, narrow_wrap, s32, BitVec.ofInt_mul, BitVec.ofInt_toInt, BitVec.ofInt_toInt]

/-! ### Quotient and remainder (R247, R248) -/

theorem divWord_zero (r : DivRound) (o : Overflow) (x : Word) : divWord r o x 0 = 0 := if_pos rfl

theorem modWord_zero (r : DivRound) (x : Word) : modWord r x 0 = 0 := if_pos rfl

theorem divWord_truncate_wrap (x y : Word) : divWord .truncate .wrap x y = x.sdiv y := by
  by_cases hy : y = 0
  · subst hy
    rw [divWord_zero]
    exact BitVec.sdiv_zero.symm
  · rw [divWord, if_neg hy, narrow_wrap, quotient]
    apply BitVec.eq_of_toInt_eq
    rw [BitVec.toInt_sdiv, s32, BitVec.toInt_ofInt]

theorem modWord_truncate {y : Word} (hy : y ≠ 0) (x : Word) : modWord .truncate x y = x.srem y := by
  have remainder : x.toInt - y.toInt * x.toInt.tdiv y.toInt = (x.srem y).toInt := by
    rw [BitVec.toInt_srem, Int.tmod_def]
  rw [modWord, if_neg hy, quotient, remainder, s32_toInt]

/-- The remainder is defined from the quotient (U8), so the two recombine before they are wrapped, and wrapping keeps
sums and products. -/
theorem divWord_mul_add_modWord (r : DivRound) {y : Word} (hy : y ≠ 0) (x : Word) :
    divWord r .wrap x y * y + modWord r x y = x := by
  rw [divWord, modWord, if_neg hy, if_neg hy, narrow_wrap]
  generalize quotient r x.toInt y.toInt = q
  calc s32 q * y + s32 (x.toInt - y.toInt * q)
      = s32 q * s32 y.toInt + s32 (x.toInt - y.toInt * q) := by rw [s32_toInt]
    _ = s32 (q * y.toInt + (x.toInt - y.toInt * q)) := by
        rw [s32, s32, s32, s32, BitVec.ofInt_add, BitVec.ofInt_mul]
    _ = s32 x.toInt := by ring_nf
    _ = x := s32_toInt x

/-! ### Complement and shifts (R252 to R255) -/

theorem not_toInt (x : Word) : (~~~x).toInt = -x.toInt - 1 := by
  have negated : ~~~x = s32 (-x.toInt - 1) := by
    rw [BitVec.not_eq_neg_add, s32_sub, s32, BitVec.ofInt_neg, BitVec.ofInt_toInt]
    rfl
  have lower : -2 ^ 31 ≤ x.toInt := BitVec.le_toInt x
  have upper : x.toInt < 2 ^ 31 := BitVec.toInt_lt
  rw [negated, s32, BitVec.toInt_ofInt, Int.bmod_eq_of_le] <;> omega

theorem sarWord_eq (x : Word) (n : Nat) : sarWord x n = x.sshiftRight n := by
  rw [sarWord, BitVec.sshiftRight, Int.shiftRight_eq_div_pow]
  rfl

theorem shrWord_eq (x : Word) (n : Nat) : shrWord x n = x >>> n := by
  apply BitVec.eq_of_toNat_eq
  have quotient_cast : ((u32 x : Int) / 2 ^ n) = ((x.toNat / 2 ^ n : Nat) : Int) := by
    rw [u32]
    norm_cast
  have bound : x.toNat / 2 ^ n < 2 ^ 32 := lt_of_le_of_lt (Nat.div_le_self _ _) x.isLt
  rw [shrWord, quotient_cast, s32, BitVec.ofInt_natCast, BitVec.toNat_ofNat, Nat.mod_eq_of_lt bound,
    BitVec.toNat_ushiftRight, Nat.shiftRight_eq_div_pow]

theorem shlWord_wrap (x : Word) (n : Nat) : shlWord .wrap x n = x <<< n := by
  have power : (2 : Int) ^ n = ((2 ^ n : Nat) : Int) := by norm_cast
  rw [shlWord, narrow_wrap, s32, BitVec.ofInt_mul, BitVec.ofInt_toInt, power, BitVec.ofInt_natCast,
    BitVec.shiftLeft_eq_mul_twoPow]
  congr 1
  apply BitVec.eq_of_toNat_eq
  rw [BitVec.toNat_ofNat, BitVec.toNat_twoPow]

/-! ### Truth words (R242) -/

theorem truthWord_decide (p : Prop) [Decidable p] : truthWord (decide p) = if p then 1 else 0 := by
  simp [truthWord]

theorem truthWord_not_decide (p : Prop) [Decidable p] : truthWord (!decide p) = if p then 0 else 1 := by
  by_cases h : p <;> simp [truthWord, h]

theorem lessThan_signed (x y : Word) : lessThan true x y = decide (x.toInt < y.toInt) := rfl

theorem truthWord_lessThan (x y : Word) : truthWord (lessThan true x y) = if x.toInt < y.toInt then 1 else 0 := by
  rw [lessThan_signed, truthWord_decide]

theorem truthWord_not_lessThan (x y : Word) :
    truthWord (!lessThan true x y) = if y.toInt ≤ x.toInt then 1 else 0 := by
  rw [lessThan_signed, ← decide_not, truthWord_decide]
  simp only [not_lt]

theorem truthOf_eq (x : Word) : truthOf x = !decide (x = 0) := decide_not

theorem truthWord_and (x y : Word) : truthWord (truthOf x && truthOf y) = if x = 0 ∨ y = 0 then 0 else 1 := by
  rw [truthOf_eq, truthOf_eq, ← Bool.not_or, ← Bool.decide_or, truthWord_not_decide]

theorem truthWord_or (x y : Word) : truthWord (truthOf x || truthOf y) = if x = 0 ∧ y = 0 then 0 else 1 := by
  rw [truthOf_eq, truthOf_eq, ← Bool.not_and, ← Bool.decide_and, truthWord_not_decide]

theorem truthWord_not (x : Word) : truthWord (!truthOf x) = if x = 0 then 1 else 0 := by
  rw [truthOf_eq, Bool.not_not, truthWord_decide]

/-! ### The handlers, with their operation as the unit's law gives it -/

section
variable (s : State)

theorem exec_add : exec .add s = .next { s with stack := addWord .wrap s.top s.second :: s.belowTwo } :=
  binary_eq (fun x y => addWord .wrap x y) s
theorem exec_sub : exec .sub s = .next { s with stack := subWord .wrap s.top s.second :: s.belowTwo } :=
  binary_eq (fun x y => subWord .wrap x y) s
theorem exec_mul : exec .mul s = .next { s with stack := mulWord .wrap s.top s.second :: s.belowTwo } :=
  binary_eq (fun x y => mulWord .wrap x y) s
theorem exec_div : exec .div s = .next { s with stack := divWord .truncate .wrap s.top s.second :: s.belowTwo } :=
  binary_eq (fun x y => divWord .truncate .wrap x y) s
theorem exec_mod : exec .mod s = .next { s with stack := modWord .truncate s.top s.second :: s.belowTwo } :=
  binary_eq (fun x y => modWord .truncate x y) s
theorem exec_or : exec .or s = .next { s with stack := (s.top ||| s.second) :: s.belowTwo } :=
  binary_eq (fun x y => x ||| y) s
theorem exec_and : exec .and s = .next { s with stack := (s.top &&& s.second) :: s.belowTwo } :=
  binary_eq (fun x y => x &&& y) s
theorem exec_xor : exec .xor s = .next { s with stack := (s.top ^^^ s.second) :: s.belowTwo } :=
  binary_eq (fun x y => x ^^^ y) s
theorem exec_not : exec .not s = .next { s with stack := (~~~s.top) :: s.stack.tail } :=
  unary_eq (fun x => ~~~x) s
theorem exec_sar : exec .sar s = .next { s with stack := sarWord s.top (s.second.toNat % 32) :: s.belowTwo } :=
  binary_eq (fun x y => sarWord x (y.toNat % 32)) s
theorem exec_shr : exec .shr s = .next { s with stack := shrWord s.top (s.second.toNat % 32) :: s.belowTwo } :=
  binary_eq (fun x y => shrWord x (y.toNat % 32)) s
theorem exec_shl : exec .shl s = .next { s with stack := shlWord .wrap s.top (s.second.toNat % 32) :: s.belowTwo } :=
  binary_eq (fun x y => shlWord .wrap x (y.toNat % 32)) s
theorem exec_eq : exec .eq s = .next { s with stack := truthWord (decide (s.top = s.second)) :: s.belowTwo } :=
  binary_eq (fun x y => truthWord (decide (x = y))) s
theorem exec_ne : exec .ne s = .next { s with stack := truthWord (decide (s.top ≠ s.second)) :: s.belowTwo } :=
  binary_eq (fun x y => truthWord (decide (x ≠ y))) s
theorem exec_gt : exec .gt s = .next { s with stack := truthWord (lessThan true s.second s.top) :: s.belowTwo } :=
  binary_eq (fun x y => truthWord (lessThan true y x)) s
theorem exec_lt : exec .lt s = .next { s with stack := truthWord (lessThan true s.top s.second) :: s.belowTwo } :=
  binary_eq (fun x y => truthWord (lessThan true x y)) s
theorem exec_ge : exec .ge s = .next { s with stack := truthWord (!lessThan true s.top s.second) :: s.belowTwo } :=
  binary_eq (fun x y => truthWord (!lessThan true x y)) s
theorem exec_le : exec .le s = .next { s with stack := truthWord (!lessThan true s.second s.top) :: s.belowTwo } :=
  binary_eq (fun x y => truthWord (!lessThan true y x)) s
theorem exec_land : exec .land s = .next { s with stack := truthWord (truthOf s.top && truthOf s.second) :: s.belowTwo } :=
  binary_eq (fun x y => truthWord (truthOf x && truthOf y)) s
theorem exec_lor : exec .lor s = .next { s with stack := truthWord (truthOf s.top || truthOf s.second) :: s.belowTwo } :=
  binary_eq (fun x y => truthWord (truthOf x || truthOf y)) s
theorem exec_lnot : exec .lnot s = .next { s with stack := truthWord (!truthOf s.top) :: s.stack.tail } :=
  unary_eq (fun x => truthWord (!truthOf x)) s

end

/-- The reserved subcodes of family 11 (R265 to R275). -/
def reservedAlu : List Instr :=
  [.rsvdA21, .rsvdA22, .rsvdA23, .rsvdA24, .rsvdA25, .rsvdA26, .rsvdA27, .rsvdA28, .rsvdA29, .rsvdA30, .rsvdA31]

theorem exec_of_mem_reservedAlu {i : Instr} (h : i ∈ reservedAlu) (s : State) :
    exec i s = .next { s with stack := s.belowTwo } := by
  have two : exec i s = popTwo s := by
    simp only [reservedAlu, List.mem_cons, List.not_mem_nil, or_false] at h
    rcases h with rfl | rfl | rfl | rfl | rfl | rfl | rfl | rfl | rfl | rfl | rfl <;> rfl
  rw [two, popTwo_eq]

/-! ### What every instruction of the family leaves alone (R276) -/

/-- The instruction changes nothing but the top two elements of the data stack. -/
def ChangesTopTwo (i : Instr) : Prop :=
  ∀ s : State, ∃ p : List Word, p.length ≤ 2 ∧ exec i s = .next { s with stack := p ++ s.belowTwo }

theorem changesTopTwo_of_binary {i : Instr} {v : State → Word}
    (h : ∀ s, exec i s = .next { s with stack := v s :: s.belowTwo }) : ChangesTopTwo i :=
  fun s => ⟨[v s], by simp, h s⟩

/-- A unary operation leaves the second element where it is, if there is one. -/
theorem changesTopTwo_of_unary {i : Instr} {v : State → Word}
    (h : ∀ s, exec i s = .next { s with stack := v s :: s.stack.tail }) : ChangesTopTwo i := by
  intro s
  have kept : s.stack.tail.take 1 ++ s.belowTwo = s.stack.tail := by
    have split_tail := List.take_append_drop 1 s.stack.tail
    rwa [List.drop_one] at split_tail
  refine ⟨v s :: s.stack.tail.take 1, ?_, ?_⟩
  · simp only [List.length_cons, List.length_take]
    omega
  · rw [h, List.cons_append, kept]

theorem changesTopTwo_of_mem_reservedAlu {i : Instr} (h : i ∈ reservedAlu) : ChangesTopTwo i :=
  fun s => ⟨[], by simp, exec_of_mem_reservedAlu h s⟩

theorem decode_of_alu_family {c : Cell} (family : c.r.toNat % 16 = 11) : decode c = aluNumbering c.sub32 := by
  have hf : c.family = 11 := family
  simp only [decode, hf]

theorem aluNumbering_changesTopTwo (k : Nat) : ChangesTopTwo (aluNumbering k) := by
  unfold aluNumbering
  split
  case h_1 => exact changesTopTwo_of_binary exec_add
  case h_2 => exact changesTopTwo_of_binary exec_sub
  case h_3 => exact changesTopTwo_of_binary exec_mul
  case h_4 => exact changesTopTwo_of_binary exec_div
  case h_5 => exact changesTopTwo_of_binary exec_mod
  case h_6 => exact changesTopTwo_of_binary exec_or
  case h_7 => exact changesTopTwo_of_binary exec_and
  case h_8 => exact changesTopTwo_of_binary exec_xor
  case h_9 => exact changesTopTwo_of_unary exec_not
  case h_10 => exact changesTopTwo_of_binary exec_sar
  case h_11 => exact changesTopTwo_of_binary exec_shr
  case h_12 => exact changesTopTwo_of_binary exec_shl
  case h_13 => exact changesTopTwo_of_binary exec_eq
  case h_14 => exact changesTopTwo_of_binary exec_ne
  case h_15 => exact changesTopTwo_of_binary exec_gt
  case h_16 => exact changesTopTwo_of_binary exec_lt
  case h_17 => exact changesTopTwo_of_binary exec_ge
  case h_18 => exact changesTopTwo_of_binary exec_le
  case h_19 => exact changesTopTwo_of_binary exec_land
  case h_20 => exact changesTopTwo_of_binary exec_lor
  case h_21 => exact changesTopTwo_of_unary exec_lnot
  all_goals exact changesTopTwo_of_mem_reservedAlu (by decide)

/-! ### The obligations -/

/-- Settles O38: wrapping keeps sums, differences and products. -/
theorem sumDifferenceProductWrap : Obligations.SumDifferenceProductWrap := by
  intro s
  rw [exec_add, exec_sub, exec_mul, addWord_wrap, subWord_wrap, mulWord_wrap]
  exact ⟨rfl, rfl, rfl⟩

/-- Settles O39: the truncated quotient and its remainder are the signed division of words. -/
theorem divAndModTruncate : Obligations.DivAndModTruncate := by
  intro s
  rw [exec_div, exec_mod, divWord_truncate_wrap]
  refine ⟨rfl, ?_⟩
  by_cases zero : s.second = 0
  · rw [if_pos zero, zero, modWord_zero]
  · rw [if_neg zero, modWord_truncate zero]

/-- Settles O40: both laws ask for a zero divisor first. -/
theorem zeroDivisorGivesZero : Obligations.ZeroDivisorGivesZero := by
  refine ⟨fun r o x => ⟨divWord_zero r o x, modWord_zero r x⟩, fun s zero => ?_⟩
  rw [exec_div, exec_mod, zero, divWord_zero, modWord_zero]
  exact ⟨rfl, rfl⟩

/-- Settles O41: by the definition of the remainder from the quotient. -/
theorem quotientAndRemainderRecombine : Obligations.QuotientAndRemainderRecombine :=
  fun r x _ hy => divWord_mul_add_modWord r hy x

/-- Settles O42: the three binary operations are the words' own, and the complement is the negated successor. -/
theorem bitwiseOperationsActPerBit : Obligations.BitwiseOperationsActPerBit :=
  fun s => ⟨⟨_, exec_or s, fun _ => BitVec.getLsbD_or⟩, ⟨_, exec_and s, fun _ => BitVec.getLsbD_and⟩,
    ⟨_, exec_xor s, fun _ => BitVec.getLsbD_xor⟩, ⟨_, exec_not s, not_toInt s.top⟩⟩

/-- Settles O43: each law is the words' own shift. -/
theorem shiftsUseTheLowFiveBits : Obligations.ShiftsUseTheLowFiveBits := by
  intro s
  rw [exec_sar, exec_shr, exec_shl, sarWord_eq, shrWord_eq, shlWord_wrap]
  exact ⟨rfl, rfl, rfl⟩

/-- Settles O44: the truth word of each condition. -/
theorem equalityAndLogicGiveTruthWords : Obligations.EqualityAndLogicGiveTruthWords := by
  intro s
  rw [exec_eq, exec_ne, exec_land, exec_lor, exec_lnot, truthWord_decide, decide_not, truthWord_not_decide, truthWord_and,
    truthWord_or, truthWord_not]
  exact ⟨rfl, rfl, rfl, rfl, rfl⟩

/-- Settles O45: each comparison is the signed order of the operands, or its complement. -/
theorem orderedComparisonsAreSigned : Obligations.OrderedComparisonsAreSigned := by
  intro s
  rw [exec_gt, exec_lt, exec_ge, exec_le, truthWord_lessThan, truthWord_lessThan, truthWord_not_lessThan,
    truthWord_not_lessThan]
  exact ⟨rfl, rfl, rfl, rfl⟩

/-- Settles O46: they share one handler. -/
theorem reservedAluSubcodesPopTwo : Obligations.ReservedAluSubcodesPopTwo :=
  fun _ reserved s => exec_of_mem_reservedAlu reserved s

/-- Settles O47: the family's instructions are binary, unary or reserved. -/
theorem aluChangesOnlyTheTopOfTheStack : Obligations.AluChangesOnlyTheTopOfTheStack := by
  intro c s family
  rw [decode_of_alu_family family]
  exact aluNumbering_changesTopTwo c.sub32 s

end Sys2Proof.Machine
end

section
/-! PROOFS. The output instructions OUTC and OUTI (R290, R292), the encodings without effect (R98, R99), and the text a
sink shows for an event (R294). -/

namespace Sys2Proof.Machine

/-! ### The handlers -/

theorem exec_outc (s : State) : exec .outc s =
    .next { s with stack := s.stack.tail, output := s.output ++ [⟨.char, s.top⟩] } := popEmit_eq .char s

theorem exec_outi (s : State) : exec .outi s =
    .next { s with stack := s.stack.tail, output := s.output ++ [⟨.int, s.top⟩] } := popEmit_eq .int s

/-- The instructions whose handler does nothing (R98, R99; INCH by C2). -/
def noOps : List Instr :=
  [.nop, .rsvdT3, .rsvdM6, .rsvdM7, .rsvdF6, .rsvdF7, .inch, .rsvdIo3, .rsvdF13, .rsvdF14, .rsvdF15]

theorem exec_of_mem_noOps {i : Instr} (h : i ∈ noOps) (s : State) : exec i s = .next s := by
  simp only [noOps, List.mem_cons, List.not_mem_nil, or_false] at h
  rcases h with rfl | rfl | rfl | rfl | rfl | rfl | rfl | rfl | rfl | rfl | rfl <;> rfl

/-! ### Decimal digits -/

theorem digitChar_isDigit : ∀ d < 10, '0' ≤ digitChar d ∧ digitChar d ≤ '9' := by decide

theorem digitChar_value : ∀ d < 10, (digitChar d).toNat - '0'.toNat = d := by decide

theorem digitChar_eq_zero : ∀ d < 10, digitChar d = '0' → d = 0 := by decide

theorem decimalDigits_append (fuel n : Nat) (acc : List Char) :
    decimalDigits fuel n acc = decimalDigits fuel n [] ++ acc := by
  induction fuel generalizing n acc with
  | zero => rfl
  | succ fuel ih =>
    simp only [decimalDigits]
    split
    · rfl
    · rw [ih _ (digitChar (n % 10) :: acc), ih _ [digitChar (n % 10)], List.append_assoc, List.singleton_append]

/-- A number of one digit. -/
theorem decimalDigits_of_lt_ten {n : Nat} (h : n < 10) (fuel : Nat) : decimalDigits (fuel + 1) n [] = [digitChar n] := by
  have last : n / 10 = 0 := by omega
  rw [decimalDigits, if_pos last, Nat.mod_eq_of_lt h]

/-- A number of more digits: those of its tenth, and its last one. -/
theorem decimalDigits_of_ten_le {n : Nat} (h : 10 ≤ n) (fuel : Nat) :
    decimalDigits (fuel + 1) n [] = decimalDigits fuel (n / 10) [] ++ [digitChar (n % 10)] := by
  have more : n / 10 ≠ 0 := by omega
  rw [decimalDigits, if_neg more, decimalDigits_append]

theorem mem_decimalDigits (fuel n : Nat) : ∀ c ∈ decimalDigits fuel n [], '0' ≤ c ∧ c ≤ '9' := by
  induction fuel generalizing n with
  | zero => simp [decimalDigits]
  | succ fuel ih =>
    rcases Nat.lt_or_ge n 10 with small | large
    · rw [decimalDigits_of_lt_ten small]
      simpa using digitChar_isDigit n small
    · rw [decimalDigits_of_ten_le large]
      intro c hc
      rcases List.mem_append.mp hc with early | last
      · exact ih _ c early
      · rw [List.mem_singleton.mp last]
        exact digitChar_isDigit _ (Nat.mod_lt _ (by decide))

/-- The value of a numeral, most significant digit first. -/
def numeralValue (ds : List Char) : Nat := ds.foldl (fun n c => 10 * n + (c.toNat - '0'.toNat)) 0

theorem numeralValue_append_digit (ds : List Char) {d : Nat} (h : d < 10) :
    numeralValue (ds ++ [digitChar d]) = 10 * numeralValue ds + d := by
  rw [numeralValue, List.foldl_append, List.foldl_cons, List.foldl_nil, digitChar_value d h, numeralValue]

theorem numeralValue_decimalDigits {fuel n : Nat} (enough : n < 10 ^ fuel) :
    numeralValue (decimalDigits fuel n []) = n := by
  induction fuel generalizing n with
  | zero =>
    have zero : n = 0 := by simpa using enough
    rw [zero]
    rfl
  | succ fuel ih =>
    rcases Nat.lt_or_ge n 10 with small | large
    · rw [decimalDigits_of_lt_ten small]
      simpa [numeralValue] using numeralValue_append_digit [] small
    · have enough' : n / 10 < 10 ^ fuel := by
        rw [Nat.pow_succ] at enough
        omega
      rw [decimalDigits_of_ten_le large, numeralValue_append_digit _ (Nat.mod_lt _ (by decide)), ih enough']
      omega

/-- The numeral begins with a digit that is not 0, unless it is the numeral of 0. -/
theorem decimalDigits_head {fuel n : Nat} (pos : 0 < n) (enough : n < 10 ^ fuel) :
    ∃ c rest, decimalDigits fuel n [] = c :: rest ∧ c ≠ '0' := by
  induction fuel generalizing n with
  | zero =>
    rw [Nat.pow_zero] at enough
    omega
  | succ fuel ih =>
    rcases Nat.lt_or_ge n 10 with small | large
    · refine ⟨digitChar n, [], decimalDigits_of_lt_ten small fuel, fun zero => ?_⟩
      exact absurd (digitChar_eq_zero n small zero) (Nat.ne_of_gt pos)
    · rw [Nat.pow_succ] at enough
      obtain ⟨c, rest, starts, ne⟩ := ih (n := n / 10) (by omega) (by omega)
      exact ⟨c, rest ++ [digitChar (n % 10)], by rw [decimalDigits_of_ten_le large, starts, List.cons_append], ne⟩

/-- An `int32` has at most ten digits, so the fuel of `decimalText` is enough. -/
theorem natAbs_toInt_lt (v : Word) : v.toInt.natAbs < 10 ^ 10 := by
  have lower : -2 ^ 31 ≤ v.toInt := BitVec.le_toInt v
  have upper : v.toInt < 2 ^ 31 := BitVec.toInt_lt
  omega

theorem decimalDigits_ne_nil (fuel n : Nat) : decimalDigits (fuel + 1) n [] ≠ [] := by
  rcases Nat.lt_or_ge n 10 with small | large
  · simp [decimalDigits_of_lt_ten small]
  · simp [decimalDigits_of_ten_le large]

theorem decimalDigits_no_leading_zero {fuel n : Nat} (enough : n < 10 ^ (fuel + 1))
    (long : 1 < (decimalDigits (fuel + 1) n []).length) : (decimalDigits (fuel + 1) n []).head? ≠ some '0' := by
  rcases Nat.eq_zero_or_pos n with rfl | pos
  · rw [decimalDigits_of_lt_ten (by decide)] at long
    exact absurd long (Nat.lt_irrefl 1)
  · obtain ⟨c, rest, starts, ne⟩ := decimalDigits_head pos enough
    rw [starts, List.head?_cons]
    exact fun e => ne (Option.some.inj e)

/-! ### The obligations -/

/-- Settles O48: the two handlers. -/
theorem outputInstructionsEmitOneEvent : Obligations.OutputInstructionsEmitOneEvent :=
  fun s => ⟨exec_outc s, exec_outi s⟩

/-- Settles O49: the handler leaves the state, so the step is the advance and the halt test. -/
theorem noOpsOnlyAdvanceTheIp : Obligations.NoOpsOnlyAdvanceTheIp := by
  intro i noOp s
  have unchanged : exec i s = .next s := exec_of_mem_noOps noOp s
  exact ⟨unchanged, fun executes => ⟨step_of_executes executes unchanged, report_of_running executes.running⟩⟩

/-- Settles O52: the digits of the magnitude, by induction on their number. -/
theorem renderedTextIsAsciiAndShortestDecimal : Obligations.RenderedTextIsAsciiAndShortestDecimal := by
  intro v
  refine ⟨fun ascii => ?_, decimalDigits 10 v.toInt.natAbs [], rfl, decimalDigits_ne_nil 9 _, mem_decimalDigits 10 _,
    decimalDigits_no_leading_zero (natAbs_toInt_lt v), numeralValue_decimalDigits (natAbs_toInt_lt v)⟩
  have ascii' : u32 v ≤ 127 := ascii
  change [charText v] = _
  rw [charText, if_pos ascii', u32]

end Sys2Proof.Machine
end

section
/-! PROOFS. Everything a handler can do, said once: each instruction's handler is one of a few maps of the state. From
that, which instructions write which state (R39, R43, R64), and that no handler can fail (R134). -/

namespace Sys2Proof.Machine

/-! ### DECP and JZ without a case split -/

/-- The pointer DECP leaves: one less, and at 0 the same (R195). -/
def predPtr (p : MemPtr) : MemPtr := if 0 < p then p - 1 else p

theorem predPtr_toNat_le (p : MemPtr) : (predPtr p).toNat ≤ p.toNat := by
  unfold predPtr
  split
  next positive =>
    rw [memPtr_sub_one_toNat positive]
    exact Nat.sub_le _ _
  next => exact Nat.le_refl _

theorem exec_decp (s : State) : exec .decp s = .next { s with memPtr := predPtr s.memPtr } := by
  unfold predPtr
  split
  next positive => exact exec_decp_of_pos positive
  next not_positive => exact exec_decp_of_not_pos not_positive

theorem State.move_zero (s : State) : s.move 0 = s := by
  simp [State.move_eq]

/-- A JZ that falls through displaces the ip by no cell. -/
theorem exec_jz_eq_move (n : BitVec 16) (s : State) : exec (.jz n) s =
    .next (State.move (if s.top = 0 then n.toNat else 0) { s with stack := s.stack.tail }) := by
  rw [exec_jz]
  split
  · rfl
  · rw [State.move_zero]

/-! ### The effect of each instruction -/

/-- The instructions that change the data stack and nothing else. -/
def Instr.isStackOp : Instr → Bool
  | .getp | .push16 _ | .push2 _ _ | .drop | .dup | .swap | .dup2 => true
  | .add | .sub | .mul | .div | .mod | .or | .and | .xor | .not | .sar | .shr | .shl => true
  | .eq | .ne | .gt | .lt | .ge | .le | .land | .lor | .lnot => true
  | i => decide (i ∈ reservedAlu)

/-- The maps `f` of the state that the handler of `i` can be: for a stack operation any map of the stack that reads the
stack and the pointer, for every other instruction one map. `exec_effect` says that the handler is one of them. -/
inductive Effect : Instr → (State → State) → Prop where
  | none {i : Instr} (noOp : i ∈ noOps) : Effect i (fun s => s)
  | stack {i : Instr} (stackOp : Instr.isStackOp i = true) (f : List Word → MemPtr → List Word) :
      Effect i (fun s => { s with stack := f s.stack s.memPtr })
  | dir (d : Dir) : Effect (.dir d) (fun s => { s with dir := d })
  | jmp (n : BitVec 16) : Effect (.jmp n) (fun s => s.move n.toNat)
  | jz (n : BitVec 16) : Effect (.jz n) (fun s =>
      State.move (if s.top = 0 then n.toNat else 0) { s with stack := s.stack.tail })
  | ijmp : Effect .ijmp (fun s => { s with stack := s.belowTwo, ipX := s.second, ipY := s.top })
  | call : Effect .call (fun s => { s with
      stack := s.belowTwo, callStack := ⟨s.ipX, s.ipY, s.dir⟩ :: s.callStack, ipX := s.second, ipY := s.top })
  | ret : Effect .ret (fun s => { s with
      callStack := s.callStack.tail, ipX := s.topFrame.x, ipY := s.topFrame.y, dir := s.topFrame.d })
  | store : Effect .store (fun s => { s with stack := s.stack.tail, mem := s.mem.write s.memPtr.toNat s.top })
  | load : Effect .load (fun s => { s with
      stack := s.mem.word s.memPtr.toNat :: s.stack, mem := s.mem.extend s.memPtr.toNat })
  | setp : Effect .setp (fun s => { s with
      stack := s.stack.tail, memPtr := clampPtr s.top, mem := s.mem.extend (clampPtr s.top).toNat })
  | incp : Effect .incp (fun s => { s with
      memPtr := succPtr s.memPtr, mem := s.mem.extend (succPtr s.memPtr).toNat })
  | decp : Effect .decp (fun s => { s with memPtr := predPtr s.memPtr })
  | outc : Effect .outc (fun s => { s with stack := s.stack.tail, output := s.output ++ [⟨.char, s.top⟩] })
  | outi : Effect .outi (fun s => { s with stack := s.stack.tail, output := s.output ++ [⟨.int, s.top⟩] })

/-- A stack operation, from the equation of its handler. -/
theorem effect_of_stackOp {i : Instr} (stackOp : Instr.isStackOp i = true) (f : List Word → MemPtr → List Word)
    (h : ∀ s, exec i s = .next { s with stack := f s.stack s.memPtr }) :
    ∃ g, Effect i g ∧ ∀ s, exec i s = .next (g s) := ⟨_, .stack stackOp f, h⟩

/-- A binary operation of the arithmetic and logical unit. -/
theorem effect_of_binary {i : Instr} (stackOp : Instr.isStackOp i = true) (op : Word → Word → Word)
    (h : ∀ s, exec i s = .next { s with stack := op s.top s.second :: s.belowTwo }) :
    ∃ g, Effect i g ∧ ∀ s, exec i s = .next (g s) :=
  effect_of_stackOp stackOp (fun st _ => op (st.headD 0) (st.tail.headD 0) :: st.tail.tail) h

/-- A unary operation of the arithmetic and logical unit. -/
theorem effect_of_unary {i : Instr} (stackOp : Instr.isStackOp i = true) (op : Word → Word)
    (h : ∀ s, exec i s = .next { s with stack := op s.top :: s.stack.tail }) :
    ∃ g, Effect i g ∧ ∀ s, exec i s = .next (g s) :=
  effect_of_stackOp stackOp (fun st _ => op (st.headD 0) :: st.tail) h

/-- Every instruction's handler completes with its effect, in every state (R134). -/
theorem exec_effect (i : Instr) : ∃ f, Effect i f ∧ ∀ s, exec i s = .next (f s) := by
  cases i with
  | nop | rsvdT3 | rsvdM6 | rsvdM7 | rsvdF6 | rsvdF7 | inch | rsvdIo3 | rsvdF13 | rsvdF14 | rsvdF15 =>
    exact ⟨_, .none (by decide), fun s => exec_of_mem_noOps (by decide) s⟩
  | dir d => exact ⟨_, .dir d, exec_dir d⟩
  | jmp n => exact ⟨_, .jmp n, exec_jmp n⟩
  | jz n => exact ⟨_, .jz n, exec_jz_eq_move n⟩
  | ijmp => exact ⟨_, .ijmp, exec_ijmp⟩
  | call => exact ⟨_, .call, exec_call⟩
  | ret => exact ⟨_, .ret, exec_ret⟩
  | store => exact ⟨_, .store, exec_store⟩
  | load => exact ⟨_, .load, exec_load⟩
  | setp => exact ⟨_, .setp, exec_setp⟩
  | incp => exact ⟨_, .incp, exec_incp⟩
  | decp => exact ⟨_, .decp, exec_decp⟩
  | outc => exact ⟨_, .outc, exec_outc⟩
  | outi => exact ⟨_, .outi, exec_outi⟩
  | getp => exact effect_of_stackOp rfl (fun st p => p.setWidth 32 :: st) exec_getp
  | push16 n => exact effect_of_stackOp rfl (fun st _ => imm16Word n :: st) (exec_push16 n)
  | push2 g b => exact effect_of_stackOp rfl (fun st _ => byteWord b :: byteWord g :: st) (exec_push2 g b)
  | drop => exact effect_of_stackOp rfl (fun st _ => st.tail) exec_drop
  | dup => exact effect_of_stackOp rfl (fun st _ => st.headD 0 :: st.headD 0 :: st.tail) exec_dup
  | swap => exact effect_of_stackOp rfl (fun st _ => st.tail.headD 0 :: st.headD 0 :: st.tail.tail) exec_swap
  | dup2 =>
    exact effect_of_stackOp rfl
      (fun st _ => st.tail.headD 0 :: st.headD 0 :: st.tail.headD 0 :: st.headD 0 :: st.tail.tail) exec_dup2
  | add => exact effect_of_binary rfl (addWord .wrap) exec_add
  | sub => exact effect_of_binary rfl (subWord .wrap) exec_sub
  | mul => exact effect_of_binary rfl (mulWord .wrap) exec_mul
  | div => exact effect_of_binary rfl (divWord .truncate .wrap) exec_div
  | mod => exact effect_of_binary rfl (modWord .truncate) exec_mod
  | or => exact effect_of_binary rfl (fun x y => x ||| y) exec_or
  | and => exact effect_of_binary rfl (fun x y => x &&& y) exec_and
  | xor => exact effect_of_binary rfl (fun x y => x ^^^ y) exec_xor
  | not => exact effect_of_unary rfl (fun x => ~~~x) exec_not
  | sar => exact effect_of_binary rfl (fun x y => sarWord x (y.toNat % 32)) exec_sar
  | shr => exact effect_of_binary rfl (fun x y => shrWord x (y.toNat % 32)) exec_shr
  | shl => exact effect_of_binary rfl (fun x y => shlWord .wrap x (y.toNat % 32)) exec_shl
  | eq => exact effect_of_binary rfl (fun x y => truthWord (decide (x = y))) exec_eq
  | ne => exact effect_of_binary rfl (fun x y => truthWord (decide (x ≠ y))) exec_ne
  | gt => exact effect_of_binary rfl (fun x y => truthWord (lessThan true y x)) exec_gt
  | lt => exact effect_of_binary rfl (fun x y => truthWord (lessThan true x y)) exec_lt
  | ge => exact effect_of_binary rfl (fun x y => truthWord (!lessThan true x y)) exec_ge
  | le => exact effect_of_binary rfl (fun x y => truthWord (!lessThan true y x)) exec_le
  | land => exact effect_of_binary rfl (fun x y => truthWord (truthOf x && truthOf y)) exec_land
  | lor => exact effect_of_binary rfl (fun x y => truthWord (truthOf x || truthOf y)) exec_lor
  | lnot => exact effect_of_unary rfl (fun x => truthWord (!truthOf x)) exec_lnot
  | rsvdA21 | rsvdA22 | rsvdA23 | rsvdA24 | rsvdA25 | rsvdA26 | rsvdA27 | rsvdA28 | rsvdA29 | rsvdA30 | rsvdA31 =>
    exact effect_of_stackOp rfl (fun st _ => st.tail.tail) fun s => exec_of_mem_reservedAlu (by decide) s

/-- Everything a handler can do when it answers a next state. -/
theorem effect_of_exec {i : Instr} {s t : State} (h : exec i s = .next t) :
    ∃ f, Effect i f ∧ (∀ u, exec i u = .next (f u)) ∧ t = f s := by
  obtain ⟨f, effect, completes⟩ := exec_effect i
  rw [completes] at h
  exact ⟨f, effect, completes, (Host.Outcome.next.inj h).symm⟩

/-! ### What an effect writes -/

section
variable {i : Instr} {f : State → State}

theorem Effect.halted (h : Effect i f) (s : State) : (f s).halted = s.halted := by
  cases h with
  | _ => rfl

theorem Effect.grid (h : Effect i f) (s : State) : (f s).grid = s.grid := by
  cases h with
  | _ => rfl

/-- What can happen to the direction (R39). -/
theorem Effect.dir_cases (h : Effect i f) (s : State) : (f s).dir = s.dir ∨ (∃ d, i = .dir d) ∨ i = .ret := by
  cases h with
  | dir d => exact .inr (.inl ⟨d, rfl⟩)
  | ret => exact .inr (.inr rfl)
  | _ => exact .inl rfl

/-- What can happen to the pointer (R64). -/
theorem Effect.memPtr_cases (h : Effect i f) (s : State) : (f s).memPtr = s.memPtr ∨
    (i = .setp ∧ (f s).memPtr = clampPtr s.top) ∨ (i = .incp ∧ (f s).memPtr = succPtr s.memPtr) ∨
    (i = .decp ∧ (f s).memPtr = predPtr s.memPtr) := by
  cases h with
  | setp => exact .inr (.inl ⟨rfl, rfl⟩)
  | incp => exact .inr (.inr (.inl ⟨rfl, rfl⟩))
  | decp => exact .inr (.inr (.inr ⟨rfl, rfl⟩))
  | _ => exact .inl rfl

/-- What can happen to the tape: it stands and the pointer is not raised, or it is extended to the pointer the handler
leaves, or STORE writes it at the pointer (R64). -/
theorem Effect.mem_cases (h : Effect i f) (s : State) :
    ((f s).mem = s.mem ∧ (f s).memPtr.toNat ≤ s.memPtr.toNat) ∨
    ((i = .load ∨ i = .setp ∨ i = .incp) ∧ (f s).mem = s.mem.extend (f s).memPtr.toNat) ∨
    (i = .store ∧ (f s).mem = s.mem.write s.memPtr.toNat s.top ∧ (f s).memPtr = s.memPtr) := by
  cases h with
  | decp => exact .inl ⟨rfl, predPtr_toNat_le s.memPtr⟩
  | load => exact .inr (.inl ⟨.inl rfl, rfl⟩)
  | setp => exact .inr (.inl ⟨.inr (.inl rfl), rfl⟩)
  | incp => exact .inr (.inl ⟨.inr (.inr rfl), rfl⟩)
  | store => exact .inr (.inr ⟨rfl, rfl, rfl⟩)
  | _ => exact .inl ⟨rfl, Nat.le_refl _⟩

/-- What can happen to the call stack (R43). -/
theorem Effect.callStack_cases (h : Effect i f) (s : State) : (f s).callStack = s.callStack ∨
    (i = .call ∧ (f s).callStack = ⟨s.ipX, s.ipY, s.dir⟩ :: s.callStack) ∨
    (i = .ret ∧ (f s).callStack = s.callStack.tail) := by
  cases h with
  | call => exact .inr (.inl ⟨rfl, rfl⟩)
  | ret => exact .inr (.inr ⟨rfl, rfl⟩)
  | _ => exact .inl rfl

/-- What can happen to the trace (R303). -/
theorem Effect.output_cases (h : Effect i f) (s : State) : (f s).output = s.output ∨
    (i = .outc ∧ (f s).output = s.output ++ [⟨.char, s.top⟩]) ∨
    (i = .outi ∧ (f s).output = s.output ++ [⟨.int, s.top⟩]) := by
  cases h with
  | outc => exact .inr (.inl ⟨rfl, rfl⟩)
  | outi => exact .inr (.inr ⟨rfl, rfl⟩)
  | _ => exact .inl rfl

/-- What can happen to the position (R39). -/
theorem Effect.ip_cases (h : Effect i f) (s : State) : ((f s).ipX = s.ipX ∧ (f s).ipY = s.ipY) ∨
    (∃ n, i = .jmp n) ∨ (∃ n, i = .jz n) ∨ i = .ijmp ∨ i = .call ∨ i = .ret := by
  cases h with
  | jmp n => exact .inr (.inl ⟨n, rfl⟩)
  | jz n => exact .inr (.inr (.inl ⟨n, rfl⟩))
  | ijmp => exact .inr (.inr (.inr (.inl rfl)))
  | call => exact .inr (.inr (.inr (.inr (.inl rfl))))
  | ret => exact .inr (.inr (.inr (.inr (.inr rfl))))
  | _ => exact .inl ⟨rfl, rfl⟩

/-- The instructions that leave the data stack alone: the directions, JMP and those of this list (R43). -/
def stackKeepers : List Instr :=
  [.nop, .ret, .incp, .decp, .inch, .rsvdT3, .rsvdM6, .rsvdM7, .rsvdIo3, .rsvdF6, .rsvdF7, .rsvdF13, .rsvdF14, .rsvdF15]

theorem not_isStackOp_of_mem_stackKeepers : ∀ j ∈ stackKeepers, Instr.isStackOp j = false := by decide

theorem Effect.stack_of_keeper (h : Effect i f) (keeper : (∃ d, i = .dir d) ∨ (∃ n, i = .jmp n) ∨ i ∈ stackKeepers)
    (s : State) : (f s).stack = s.stack := by
  cases h with
  | none | dir | jmp | ret | incp | decp => rfl
  | stack stackOp g =>
    rcases keeper with ⟨d, rfl⟩ | ⟨n, rfl⟩ | listed
    · cases stackOp
    · cases stackOp
    · rw [not_isStackOp_of_mem_stackKeepers _ listed] at stackOp
      cases stackOp
  | jz | ijmp | call | store | load | setp | outc | outi => simp [stackKeepers] at keeper

end

/-! ### The obligations -/

/-- Settles O14: every handler has an effect. -/
theorem everyHandlerCompletes : Obligations.EveryHandlerCompletes := by
  intro i s
  obtain ⟨f, -, completes⟩ := exec_effect i
  exact ⟨f s, completes s⟩

/-- Settles O53: field by field, what an effect can write. -/
theorem stateIsWrittenByItsInstructionsOnly : Obligations.StateIsWrittenByItsInstructionsOnly := by
  intro i s t executed
  obtain ⟨f, effect, -, rfl⟩ := effect_of_exec executed
  refine ⟨effect.halted s, effect.grid s, fun changed => ?_, fun changed => ?_, fun changed => ?_, fun changed => ?_,
    fun changed => ?_, fun changed => ?_, fun changed => ?_⟩
  · have no_keeper := mt (fun keeper => effect.stack_of_keeper keeper s) changed
    exact ⟨fun d e => no_keeper (.inl ⟨d, e⟩), fun n e => no_keeper (.inr (.inl ⟨n, e⟩)),
      fun listed => no_keeper (.inr (.inr listed))⟩
  · exact (effect.dir_cases s).resolve_left changed
  · rcases (effect.memPtr_cases s).resolve_left changed with ⟨e, -⟩ | ⟨e, -⟩ | ⟨e, -⟩
    · exact .inl e
    · exact .inr (.inl e)
    · exact .inr (.inr e)
  · rcases (effect.mem_cases s).resolve_left (fun same => changed same.1) with ⟨e, -⟩ | ⟨e, -⟩
    · exact .inr e
    · exact .inl e
  · exact ((effect.callStack_cases s).resolve_left changed).imp And.left And.left
  · exact ((effect.output_cases s).resolve_left changed).imp And.left And.left
  · exact (effect.ip_cases s).resolve_left (fun same => changed.elim (· same.1) (· same.2))

end Sys2Proof.Machine
end

section
/-! PROOFS. Everything a step can do: the effect of the instruction it executes, then the advance and the halt test. From
that, when a step halts or stops (R136, R330, R342), what it adds to the trace (R303) and to the tape (R27, R64), and that
the trace is never read. -/

namespace Sys2Proof.Machine

/-! ### One step by its effect -/

/-- What a step of a running machine answers (R130). -/
def afterStep (f : State → State) (s : State) : State := ((f s).move 1).haltTest

/-- Everything a step can do when it answers a next state: nothing on a halted machine, else an instruction's effect and
the end of the step. -/
theorem step_effect {s t : State} (h : step s = .next t) :
    (s.halted = true ∧ t = s) ∨
    (∃ i f, Executes s i ∧ Effect i f ∧ (∀ u, exec i u = .next (f u)) ∧ t = afterStep f s) := by
  rcases step_cases h with still | ⟨running, c, u, fetched, executed, rfl⟩
  · exact .inl still
  · obtain ⟨f, effect, completes, rfl⟩ := effect_of_exec executed
    exact .inr ⟨decode c, f, ⟨running, c, fetched, rfl⟩, effect, completes, rfl⟩

/-- The step of a running machine that fetches a cell is taken: no instruction stops it (R134). -/
theorem step_of_fetch {s : State} {c : Cell} (running : s.halted = false) (fetched : fetch s = .next c) :
    ∃ t, step s = .next t := by
  obtain ⟨f, -, completes⟩ := exec_effect (decode c)
  exact ⟨_, step_of_executes ⟨running, c, fetched, rfl⟩ (completes s)⟩

/-- A run that goes on is a first step and a run from there. -/
theorem run_succ_eq_next {n : Nat} {s t : State} : Host.Core.run Sys2Proof.core (n + 1) s = .next t ↔
    ∃ u, step s = .next u ∧ Host.Core.run Sys2Proof.core n u = .next t := by
  rw [run_succ_first]
  cases step s <;> simp

/-- A machine that executes an instruction stands on a cell of its grid. -/
theorem Executes.inGrid {s : State} {i : Instr} (h : Executes s i) :
    ∃ g, s.grid = some g ∧ g.inGrid s.ipX s.ipY = true := by
  obtain ⟨c, fetched, -⟩ := h.fetched
  rcases fetch_cases s with ⟨-, stop⟩ | ⟨-, -, -, stop⟩ | ⟨-, -, -, -, stop⟩ | ⟨g, -, grid, -, inside, -, -⟩
  · simp [stop] at fetched
  · simp [stop] at fetched
  · simp [stop] at fetched
  · exact ⟨g, grid, inside⟩

/-! ### When a step halts, and when it stops -/

theorem afterStep_grid {i : Instr} {f : State → State} (h : Effect i f) (s : State) :
    (afterStep f s).grid = s.grid := by
  rw [afterStep, State.haltTest_grid, State.move_grid, h.grid]

/-- The halt test alone sets the halted flag of a running machine (R37, R136). -/
theorem afterStep_halted {i : Instr} {f : State → State} (h : Effect i f) {s : State} (running : s.halted = false) :
    (afterStep f s).halted = !(afterStep f s).ipInGrid := by
  rw [afterStep, State.haltTest_halted, State.haltTest_ipInGrid, State.move_halted, h.halted, running, Bool.false_or]

/-- A fetch that stops stops the step, for the same reason. -/
theorem step_eq_stop_of_fetch {s : State} (running : s.halted = false) :
    (∀ f, fetch s = .fault f → step s = .fault f) ∧ (∀ r, fetch s = .refused r → step s = .refused r) := by
  constructor <;> intro x hx <;> simp [step, running, hx]

/-- The stops of a step, with their causes (R330, R342). -/
theorem step_stops_cases (s : State) :
    (∃ t, step s = .next t ∧ (s.halted = true ∨ ∃ g, s.grid = some g ∧ g.wellFormed = true ∧
      g.inGrid s.ipX s.ipY = true)) ∨
    (s.halted = false ∧ s.grid = none ∧ step s = .refused .noGrid) ∨
    (s.halted = false ∧ (∃ g, s.grid = some g ∧ g.wellFormed = false) ∧ step s = .refused .gridRejected) ∨
    (s.halted = false ∧ (∃ g, s.grid = some g ∧ g.wellFormed = true ∧ g.inGrid s.ipX s.ipY = false) ∧
      step s = .fault .fetchOutsideGrid) := by
  cases running : s.halted with
  | true => exact .inl ⟨s, step_of_halted running, .inl rfl⟩
  | false =>
    obtain ⟨fault_stops, refusal_stops⟩ := step_eq_stop_of_fetch running
    rcases fetch_cases s with ⟨grid, stop⟩ | ⟨g, grid, wf, stop⟩ | ⟨g, grid, wf, outside, stop⟩ |
      ⟨g, c, grid, wf, inside, -, fetched⟩
    · exact .inr (.inl ⟨rfl, grid, refusal_stops _ stop⟩)
    · exact .inr (.inr (.inl ⟨rfl, ⟨g, grid, wf⟩, refusal_stops _ stop⟩))
    · exact .inr (.inr (.inr ⟨rfl, ⟨g, grid, wf, outside⟩, fault_stops _ stop⟩))
    · obtain ⟨t, taken⟩ := step_of_fetch running fetched
      exact .inl ⟨t, taken, .inr ⟨g, grid, wf, inside⟩⟩

/-! ### What a step adds to the trace and to the tape -/

theorem afterStep_output_cases {i : Instr} {f : State → State} (h : Effect i f) (s : State) :
    (afterStep f s).output = s.output ∨
    (i = .outc ∧ (afterStep f s).output = s.output ++ [⟨.char, s.top⟩]) ∨
    (i = .outi ∧ (afterStep f s).output = s.output ++ [⟨.int, s.top⟩]) := by
  rw [afterStep, State.haltTest_output, State.move_output]
  exact h.output_cases s

theorem afterStep_mem (f : State → State) (s : State) : (afterStep f s).mem = (f s).mem := by
  rw [afterStep, State.haltTest_mem, State.move_mem]

theorem Memory.len_le_extend_len (m : Memory) (i : Nat) : m.len ≤ (m.extend i).len := by
  rw [Memory.extend_len]
  exact Nat.le_max_left _ _

/-- No effect shortens the tape, and STORE alone changes a word of it (R27). -/
theorem Effect.mem_words {i : Instr} {f : State → State} (h : Effect i f) {s : State} (wf : s.mem.wf) :
    s.mem.len ≤ (f s).mem.len ∧
    ∀ a, (f s).mem.word a ≠ s.mem.word a → i = .store ∧ a = s.memPtr.toNat ∧ (f s).mem.word a = s.top := by
  rcases h.mem_cases s with ⟨same, -⟩ | ⟨-, extended⟩ | ⟨stores, written, -⟩
  · rw [same]
    exact ⟨Nat.le_refl _, fun a changed => absurd rfl changed⟩
  · rw [extended]
    exact ⟨Memory.len_le_extend_len _ _, fun a changed => absurd (Memory.extend_word _ _ a) changed⟩
  · rw [written]
    refine ⟨Memory.len_le_extend_len _ _, fun a changed => ?_⟩
    have at_pointer : a = s.memPtr.toNat := by
      by_contra elsewhere
      exact changed (Memory.write_word_of_ne wf _ elsewhere)
    exact ⟨stores, at_pointer, at_pointer ▸ Memory.write_word_same wf _ _⟩

/-! ### The trace is never read -/

/-- The map appends the events `es` to the trace of `s`, and everything else it writes is the same whatever the trace. -/
def Appends (f : State → State) (s : State) (es : List OutEvent) : Prop :=
  (f s).output = s.output ++ es ∧ ∀ o, f { s with output := o } = { f s with output := o ++ es }

theorem appends_nil {f : State → State} {s : State} (silent : (f s).output = s.output)
    (independent : ∀ o, f { s with output := o } = { f s with output := o }) : Appends f s [] :=
  ⟨by rw [silent, List.append_nil], fun o => by rw [List.append_nil]; exact independent o⟩

theorem Effect.appends {i : Instr} {f : State → State} (h : Effect i f) (s : State) : ∃ es, Appends f s es := by
  cases h with
  | outc => exact ⟨[⟨.char, s.top⟩], rfl, fun _ => rfl⟩
  | outi => exact ⟨[⟨.int, s.top⟩], rfl, fun _ => rfl⟩
  | _ => exact ⟨[], appends_nil rfl fun _ => rfl⟩

theorem Appends.afterStep {f : State → State} {s : State} {es : List OutEvent} (h : Appends f s es) :
    Appends (afterStep f) s es := by
  obtain ⟨appended, independent⟩ := h
  refine ⟨?_, fun o => ?_⟩
  · rw [Machine.afterStep, State.haltTest_output, State.move_output, appended]
  · rw [Machine.afterStep, Machine.afterStep, independent, State.haltTest_eq, State.haltTest_eq]
    rfl

theorem step_of_output {s t : State} (h : step s = .next t) :
    ∃ es, t.output = s.output ++ es ∧ ∀ o, step { s with output := o } = .next { t with output := o ++ es } := by
  rcases step_effect h with ⟨halted, rfl⟩ | ⟨i, f, executes, effect, completes, rfl⟩
  · refine ⟨[], (List.append_nil _).symm, fun o => ?_⟩
    rw [List.append_nil]
    exact step_of_halted halted
  · obtain ⟨es, appends⟩ := effect.appends s
    obtain ⟨appended, independent⟩ := appends.afterStep
    refine ⟨es, appended, fun o => ?_⟩
    have executes' : Executes { s with output := o } i := ⟨executes.running, executes.fetched⟩
    rw [← independent]
    exact step_of_executes executes' (completes _)

theorem run_of_output {n : Nat} {s t : State} (h : Host.Core.run Sys2Proof.core n s = .next t) :
    ∃ es, t.output = s.output ++ es ∧
      ∀ o, Host.Core.run Sys2Proof.core n { s with output := o } = .next { t with output := o ++ es } := by
  induction n generalizing s with
  | zero =>
    obtain rfl : s = t := Host.Outcome.next.inj h
    exact ⟨[], (List.append_nil _).symm, fun o => by rw [List.append_nil]; rfl⟩
  | succ n ih =>
    obtain ⟨u, first, rest⟩ := run_succ_eq_next.mp h
    obtain ⟨es, appended, independent⟩ := step_of_output first
    obtain ⟨es', appended', independent'⟩ := ih rest
    refine ⟨es ++ es', by rw [appended', appended, List.append_assoc], fun o => ?_⟩
    rw [run_succ_eq_next]
    exact ⟨_, independent o, by rw [← List.append_assoc]; exact independent' (o ++ es)⟩

/-! ### The obligations -/

/-- Settles O11: the halt test alone writes the flag, by the position it finds. -/
theorem stepHaltsExactlyOutsideTheGrid : Obligations.StepHaltsExactlyOutsideTheGrid := by
  refine ⟨fun s t g running grid taken => ?_, fun i s t executed => ?_⟩
  · rcases step_effect taken with ⟨halted, -⟩ | ⟨i, f, -, effect, -, rfl⟩
    · rw [running] at halted
      cases halted
    · rw [← Grid.inGrid_iff, afterStep_halted effect running,
        State.ipInGrid_of_grid ((afterStep_grid effect s).trans grid), Bool.not_eq_true', Bool.not_eq_true]
  · obtain ⟨f, effect, -, rfl⟩ := effect_of_exec executed
    exact effect.halted s

/-- Settles O13: the four things a request can meet exclude each other, and each has one answer. -/
theorem stepStopsOnlyOutsideItsPreconditions : Obligations.StepStopsOnlyOutsideItsPreconditions := by
  intro s
  rcases step_stops_cases s with ⟨t, taken, halted | ⟨g, grid, wf, inside⟩⟩ | ⟨running, grid, stop⟩ |
    ⟨running, ⟨g, grid, wf⟩, stop⟩ | ⟨running, ⟨g, grid, wf, outside⟩, stop⟩
  · simp [taken, halted]
  · simp [taken, grid, wf, inside]
  · simp [stop, running, grid, @eq_comm _ Refusal.noGrid]
  · simp [stop, running, grid, wf, @eq_comm _ Refusal.gridRejected]
  · simp [stop, running, grid, wf, outside]

/-- Settles O50: an effect emits at most one event, and the end of the step none. -/
theorem outputGrowsByAtMostOneEvent : Obligations.OutputGrowsByAtMostOneEvent := by
  intro s t taken
  rcases step_effect taken with ⟨-, rfl⟩ | ⟨i, f, executes, effect, -, rfl⟩
  · exact .inl rfl
  · rcases afterStep_output_cases effect s with same | ⟨rfl, emitted⟩ | ⟨rfl, emitted⟩
    · exact .inl same
    · exact .inr (.inl ⟨executes, emitted⟩)
    · exact .inr (.inr ⟨executes, emitted⟩)

/-- Settles O51, by induction on the length of the run. -/
theorem traceIsNeverRead : Obligations.TraceIsNeverRead := by
  intro n s t o run
  obtain ⟨es, appended, independent⟩ := run_of_output run
  exact ⟨es, appended, independent o⟩

/-- Settles O54: what an effect does to the words, and the end of a step touches none. -/
theorem onlyStoreChangesAWord : Obligations.OnlyStoreChangesAWord := by
  intro s t wf taken
  rcases step_effect taken with ⟨-, rfl⟩ | ⟨i, f, executes, effect, -, rfl⟩
  · exact ⟨Nat.le_refl _, fun a changed => absurd rfl changed⟩
  · obtain ⟨longer, changes⟩ := effect.mem_words wf
    rw [afterStep_mem]
    refine ⟨longer, fun a changed => ?_⟩
    obtain ⟨rfl, at_pointer, stored⟩ := changes a changed
    exact ⟨executes, at_pointer, stored⟩

end Sys2Proof.Machine
end

section
/-! PROOFS. The invariants between steps (R45): they hold at reset (R44), every step keeps them, and so no run on a
well-formed grid faults or is refused (R330). And construction and the RESET transaction (R44, R305, R342). -/

namespace Sys2Proof.Machine

/-! ### Construction -/

theorem construct_mem_toList (g : Option Grid) : (State.construct g).mem.toList = [1] := rfl

theorem resetTransaction_of_wellFormed {g : Grid} (h : g.wellFormed = true) :
    resetTransaction g = .next (State.construct (some g)) := if_pos h

theorem resetTransaction_of_not_wellFormed {g : Grid} (h : g.wellFormed = false) :
    resetTransaction g = .refused .gridRejected := by
  simp [resetTransaction, h]

/-- A grid has at least one cell, so its origin is in it (R5). -/
theorem Grid.inGrid_origin {g : Grid} (h : g.wellFormed = true) : g.inGrid 0 0 = true := by
  simp only [Grid.wellFormed, Grid.widthOk, Grid.heightOk, Bool.and_eq_true, decide_eq_true_eq] at h
  obtain ⟨⟨⟨wide, -⟩, high, -⟩, -⟩ := h
  have zero : (0 : Word).toInt = 0 := rfl
  rw [Grid.inGrid_iff, zero]
  omega

/-- Construction keeps the invariants on any grid that is in order, and without one. -/
theorem inv_construct {g : Option Grid} (wf : g.all Grid.wellFormed = true) : Inv (State.construct g) where
  grid_ok := wf
  running_in_grid := by
    intro given _
    obtain ⟨g, rfl⟩ := Option.isSome_iff_exists.mp given
    exact Grid.inGrid_origin wf
  halted_outside := nofun
  mem_wf := reset_mem_wf
  mem_cap := Nat.one_le_two_pow
  ptr_in_tape := Nat.one_pos
  frames_in_grid := rfl

/-! ### What a step keeps -/

/-- What the invariants say of the tape and the pointer (R45 item 3). -/
structure TapeInv (s : State) : Prop where
  wf : s.mem.wf
  cap : s.mem.len ≤ 2 ^ 31
  ptr : s.memPtr.toNat < s.mem.len

/-- An extension to the pointer, or a write at it, leaves a tape that holds the pointer and no more than all pointers. -/
theorem Effect.tapeInv {i : Instr} {f : State → State} (h : Effect i f) {s : State} (inv : TapeInv s) :
    TapeInv (f s) := by
  obtain ⟨wf, cap, ptr⟩ := inv
  have bound : (f s).memPtr.toNat < 2 ^ 31 := (f s).memPtr.isLt
  rcases h.mem_cases s with ⟨same, lower⟩ | ⟨-, extended⟩ | ⟨-, written, same_ptr⟩
  · exact ⟨same ▸ wf, same ▸ cap, same ▸ Nat.lt_of_le_of_lt lower ptr⟩
  · refine ⟨extended ▸ Memory.extend_wf _ wf, ?_, extended ▸ Memory.lt_extend_len _ _⟩
    rw [extended, Memory.extend_len]
    omega
  · refine ⟨written ▸ Memory.write_wf _ _ wf, ?_, ?_⟩
    · rw [written, Memory.write_len]
      omega
    · rw [written, same_ptr, Memory.write_len]
      omega

theorem Inv.tapeInv {s : State} (h : Inv s) : TapeInv s := ⟨h.mem_wf, h.mem_cap, h.ptr_in_tape⟩

/-- The one frame an effect can add holds the position of the CALL itself, which is in the grid (R45 item 7). -/
theorem Effect.frames_in_grid {i : Instr} {f : State → State} (h : Effect i f) {s : State}
    (here : s.frameInGrid ⟨s.ipX, s.ipY, s.dir⟩ = true) (frames : s.callStack.all s.frameInGrid = true) :
    (f s).callStack.all s.frameInGrid = true := by
  rcases h.callStack_cases s with same | ⟨-, pushed⟩ | ⟨-, popped⟩
  · rw [same, frames]
  · rw [pushed, List.all_cons, here, frames]
    rfl
  · rw [popped, List.all_eq_true]
    exact fun frame later => List.all_eq_true.mp frames frame (List.mem_of_mem_tail later)

theorem Executes.frameInGrid {s : State} {i : Instr} (h : Executes s i) :
    s.frameInGrid ⟨s.ipX, s.ipY, s.dir⟩ = true := by
  obtain ⟨g, grid, inside⟩ := h.inGrid
  rw [State.frameInGrid, grid, Option.any_some, inside]

theorem frameInGrid_of_grid_eq {s t : State} (h : t.grid = s.grid) : t.frameInGrid = s.frameInGrid := by
  funext frame
  rw [State.frameInGrid, State.frameInGrid, h]

/-- The step of a running machine keeps the invariants: the halt test settles items 1 and 2 whatever the handler did. -/
theorem inv_afterStep {s : State} {i : Instr} {f : State → State} (executes : Executes s i) (effect : Effect i f)
    (inv : Inv s) : Inv (afterStep f s) := by
  have grid : (afterStep f s).grid = s.grid := afterStep_grid effect s
  have halted := afterStep_halted effect executes.running
  obtain ⟨wf, cap, ptr⟩ := effect.tapeInv inv.tapeInv
  refine ⟨grid ▸ inv.grid_ok, fun _ running => ?_, fun stops => ?_, ?_, ?_, ?_, ?_⟩
  · rw [halted] at running
    simpa using running
  · rw [halted] at stops
    simpa using stops
  · rwa [afterStep_mem]
  · rwa [afterStep_mem]
  · rwa [afterStep_mem, afterStep, State.haltTest_memPtr, State.move_memPtr]
  · rw [frameInGrid_of_grid_eq grid, afterStep, State.haltTest_callStack, State.move_callStack]
    exact effect.frames_in_grid executes.frameInGrid inv.frames_in_grid

theorem inv_step {s t : State} (inv : Inv s) (taken : step s = .next t) : Inv t := by
  rcases step_effect taken with ⟨-, rfl⟩ | ⟨i, f, executes, effect, -, rfl⟩
  · exact inv
  · exact inv_afterStep executes effect inv

theorem step_grid {s t : State} (taken : step s = .next t) : t.grid = s.grid := by
  rcases step_effect taken with ⟨-, rfl⟩ | ⟨i, f, -, effect, -, rfl⟩
  · rfl
  · exact afterStep_grid effect s

/-! ### Runs -/

theorem reachable_inv {g : Grid} {s : State} (wf : g.wellFormed = true) (h : Reachable g s) :
    Inv s ∧ s.grid = some g := by
  induction h with
  | start => exact ⟨inv_construct wf, rfl⟩
  | next _ taken ih =>
    obtain ⟨inv, grid⟩ := ih
    exact ⟨inv_step inv taken, (step_grid taken).trans grid⟩

/-- The invariants exclude every cause of a stop (R330). -/
theorem stepsOn_of_inv {s : State} {g : Grid} (inv : Inv s) (grid : s.grid = some g) : StepsOn s := by
  rcases step_stops_cases s with ⟨t, taken, -⟩ | ⟨-, none, -⟩ | ⟨-, ⟨g', grid', bad⟩, -⟩ |
    ⟨running, ⟨g', grid', -, outside⟩, -⟩
  · exact ⟨t, taken⟩
  · simp [grid] at none
  · have ok := inv.grid_ok
    simp [grid', bad] at ok
  · have inside := inv.running_in_grid (by simp [grid]) running
    simp [State.ipInGrid_of_grid grid', outside] at inside

/-! ### The obligations -/

/-- Settles O15: the fields of the constructed state, and the check the RESET transaction makes. -/
theorem constructionGivesTheResetValues : Obligations.ConstructionGivesTheResetValues :=
  ⟨fun g => ⟨rfl, construct_mem_toList g, rfl, rfl, rfl, rfl, rfl, rfl, rfl, rfl⟩, rfl, rfl,
    fun _ => ⟨resetTransaction_of_wellFormed, resetTransaction_of_not_wellFormed⟩⟩

/-- Settles O55. -/
theorem resetSatisfiesTheInvariant : Obligations.ResetSatisfiesTheInvariant :=
  ⟨inv_construct rfl, fun _ wf => inv_construct wf⟩

/-- Settles O56: by the effect of the instruction the step executes. -/
theorem stepKeepsTheInvariant : Obligations.StepKeepsTheInvariant := fun _ _ => inv_step

/-- Settles O57, by induction on the run. -/
theorem runsNeverStop : Obligations.RunsNeverStop := by
  intro g s wf reached
  obtain ⟨inv, grid⟩ := reachable_inv wf reached
  exact ⟨inv, grid, stepsOn_of_inv inv grid⟩

end Sys2Proof.Machine
end

section
/-! PROOFS. The call and return round trip (R175): as long as the call stack is not popped below a frame, the frame and
everything under it stay. -/

namespace Sys2Proof.Machine

/-- A step that leaves at least as many frames as `base` has, above which the call stack stood, leaves `base` at the
bottom: it pushes on top of it or pops what is above it. -/
theorem step_keeps_frames {base : List Frame} {u v : State} (taken : step u = .next v) (under : base <:+ u.callStack)
    (long : base.length ≤ v.callStack.length) : base <:+ v.callStack := by
  rcases step_effect taken with ⟨-, rfl⟩ | ⟨i, f, -, effect, -, rfl⟩
  · exact under
  · rw [afterStep, State.haltTest_callStack, State.move_callStack] at long ⊢
    rcases effect.callStack_cases u with same | ⟨-, pushed⟩ | ⟨-, popped⟩
    · rwa [same]
    · rw [pushed]
      exact under.trans (List.suffix_cons _ _)
    · rw [popped] at long ⊢
      exact List.suffix_of_suffix_length_le under (List.tail_suffix _) long

/-- So does a run all of whose states have that many frames. -/
theorem run_keeps_frames {s1 t : State} {n : Nat}
    (never_below : ∀ k, k ≤ n → ∃ u : State, Host.Core.run Sys2Proof.core k s1 = .next u ∧
      s1.callStack.length ≤ u.callStack.length)
    (run : Host.Core.run Sys2Proof.core n s1 = .next t) : s1.callStack <:+ t.callStack := by
  induction n generalizing t with
  | zero =>
    obtain rfl : s1 = t := Host.Outcome.next.inj run
    exact List.suffix_refl _
  | succ n ih =>
    obtain ⟨u, run_u, -⟩ := never_below n (Nat.le_succ n)
    have kept : s1.callStack <:+ u.callStack := ih (fun k hk => never_below k (Nat.le_succ_of_le hk)) run_u
    obtain ⟨t', run_t', long⟩ := never_below (n + 1) (Nat.le_refl _)
    obtain rfl : t' = t := Host.Outcome.next.inj (run_t'.symm.trans run)
    rw [run_succ_last, run_u] at run
    exact step_keeps_frames run kept long

/-- The call stack a CALL's step leaves (R171). -/
theorem step_call_callStack {s s1 : State} (calls : Executes s .call) (taken : step s = .next s1) :
    s1.callStack = ⟨s.ipX, s.ipY, s.dir⟩ :: s.callStack := by
  rw [step_of_executes calls (exec_call s)] at taken
  obtain rfl := Host.Outcome.next.inj taken
  rw [State.haltTest_callStack, State.move_callStack]

/-- RET on a call stack whose top frame is known. -/
theorem exec_ret_of_callStack {t : State} {frame : Frame} {rest : List Frame} (h : t.callStack = frame :: rest) :
    exec .ret t = .next { t with callStack := rest, ipX := frame.x, ipY := frame.y, dir := frame.d } := by
  rw [exec_ret, State.topFrame, h, List.headD_cons, List.tail_cons]

/-- Settles O27: at the RET the call stack is the one the CALL left, so it pops the CALL's own frame. -/
theorem returnRestoresTheCall : Obligations.ReturnRestoresTheCall := by
  intro s s1 t n calls called never_below run returns same_length
  have kept : s1.callStack = t.callStack := (run_keeps_frames never_below run).eq_of_length same_length.symm
  have saved : t.callStack = ⟨s.ipX, s.ipY, s.dir⟩ :: s.callStack := kept ▸ step_call_callStack calls called
  have restored := exec_ret_of_callStack saved
  exact ⟨restored, step_of_executes_moved returns restored⟩

end Sys2Proof.Machine
end

section
/-! PROOFS. Nothing is hidden from the inspection port (R41, R304), and the 32-bit wrap of a displacement never decides
the halt (R36, R154, R177). -/

namespace Sys2Proof.Machine

/-! ### Inspection -/

/-- The port shows the stacks turned over and the tape as a sequence, both of which give the data back. -/
theorem eq_of_inspect_eq {s t : State} (hs : s.mem.wf) (ht : t.mem.wf) (seen : inspect s = inspect t)
    (grid : s.grid = t.grid) (output : s.output = t.output) : s = t := by
  obtain ⟨stack, mem, memPtr, callStack, ipX, ipY, dir, halted, g, o⟩ := s
  obtain ⟨stack', mem', memPtr', callStack', ipX', ipY', dir', halted', g', o'⟩ := t
  simp only [inspect, Inspection.mk.injEq, List.reverse_inj] at seen
  obtain ⟨rfl, tape, rfl, rfl, rfl, rfl, rfl, rfl⟩ := seen
  obtain rfl : mem = mem' := Memory.eq_of_toList_eq hs ht tape
  obtain rfl : g = g' := grid
  obtain rfl : o = o' := output
  rfl

/-! ### The wrap of a displacement -/

/-- A sum that leaves the int32 range by less than a grid's largest side wraps to a coordinate that is in no grid. -/
theorem s32_inRange_iff {v : Int} {side : Nat} (small : side ≤ maxSide) (lower : -2 ^ 31 - 1 ≤ v) (upper : v < 2 ^ 32) :
    0 ≤ (s32 v).toInt ∧ (s32 v).toInt < side ↔ 0 ≤ v ∧ v < side := by
  have side_lt : side < 2 ^ 31 := Nat.lt_of_le_of_lt small (by decide)
  rw [s32, BitVec.toInt_ofInt, Int.bmod_def]
  split <;> omega

/-- A displacement in words is the wrapped displacement in integers. -/
theorem add_mul_unit_eq_s32 (x unit : Word) (n : Nat) : x + BitVec.ofNat 32 n * unit = s32 (x.toInt + n * unit.toInt) := by
  rw [s32_toInt_add, BitVec.ofInt_toInt]

theorem unit_toInt (d : Dir) :
    -1 ≤ (unitX d).toInt ∧ (unitX d).toInt ≤ 1 ∧ -1 ≤ (unitY d).toInt ∧ (unitY d).toInt ≤ 1 := by
  cases d <;> decide

/-- The two displacements of the statement stay within the range in which wrapping is harmless. -/
theorem displacement_bounds {x : Word} {n : Nat} {u : Int} (hu : -1 ≤ u ∧ u ≤ 1)
    (h : n = 1 ∨ (0 ≤ x.toInt ∧ n ≤ 65536)) : -2 ^ 31 - 1 ≤ x.toInt + n * u ∧ x.toInt + n * u < 2 ^ 32 := by
  have lower : -2 ^ 31 ≤ x.toInt := BitVec.le_toInt x
  have upper : x.toInt < 2 ^ 31 := BitVec.toInt_lt
  have product : -(n : Int) ≤ n * u ∧ n * u ≤ n := by
    constructor <;> nlinarith [hu.1, hu.2, Int.natCast_nonneg n]
  omega

/-! ### The obligations -/

/-- Settles O58. -/
theorem inspectionDeterminesTheState : Obligations.InspectionDeterminesTheState :=
  fun _ _ => eq_of_inspect_eq

/-- Settles O59: coordinate by coordinate. -/
theorem wrapNeverDecidesTheHalt : Obligations.WrapNeverDecidesTheHalt := by
  intro g x y d n wf range
  simp only [Grid.wellFormed, Grid.widthOk, Grid.heightOk, Bool.and_eq_true, decide_eq_true_eq] at wf
  obtain ⟨⟨⟨-, narrow⟩, -, low⟩, -⟩ := wf
  obtain ⟨unitX_lower, unitX_upper, unitY_lower, unitY_upper⟩ := unit_toInt d
  have range_x : n = 1 ∨ (0 ≤ x.toInt ∧ n ≤ 65536) :=
    range.imp_right fun ⟨inside, short⟩ => ⟨((Grid.inGrid_iff g x y).mp inside).1, short⟩
  have range_y : n = 1 ∨ (0 ≤ y.toInt ∧ n ≤ 65536) := by
    refine range.imp_right fun ⟨inside, short⟩ => ?_
    obtain ⟨-, -, nonneg, -⟩ := (Grid.inGrid_iff g x y).mp inside
    exact ⟨nonneg, short⟩
  obtain ⟨x_lower, x_upper⟩ := displacement_bounds ⟨unitX_lower, unitX_upper⟩ range_x
  obtain ⟨y_lower, y_upper⟩ := displacement_bounds ⟨unitY_lower, unitY_upper⟩ range_y
  rw [Grid.inGrid_iff, add_mul_unit_eq_s32, add_mul_unit_eq_s32, ← and_assoc, s32_inRange_iff narrow x_lower x_upper,
    s32_inRange_iff low y_lower y_upper, and_assoc]

end Sys2Proof.Machine
end
